-- ==== Sys2Proof/Word.lean ====
section
/-! DEFINITION. The byte type, the slot record and the two enumerations that every layer shares. -/

namespace Sys2Proof

/-- A byte of the stream or of the raw buffer (R10). -/
abbrev Byte := BitVec 8

/-- A slot record: one angular reading as integers (R30). Its 32 bits are the 32 bits of a RawSample (R106). -/
structure Slot where
  /-- Distance in millimetres, 14 bits (R101). -/
  rangeMm : BitVec 14
  /-- `flag_too_close` (R103). -/
  tooClose : Bool
  /-- `flag_no_return` (R104). -/
  noReturn : Bool
  /-- Intensity, stored verbatim, 16 bits (R105). -/
  intensity : BitVec 16
deriving DecidableEq, Repr, Inhabited

/-- The default slot: all four fields zero (R30). -/
def Slot.zero : Slot := ⟨0, false, false, 0⟩

/-- The two variants of the unit, fixed at construction (R2, R6). -/
inductive Variant where
  | legacy
  | packetized
deriving DecidableEq, Repr, Inhabited

/-- The coarse control state (R22). -/
inductive Phase where
  | idle
  | search
  | speed
  | fill
deriving DecidableEq, Repr, Inhabited

end Sys2Proof
end

