-- ==== Sys2Proof/Config.lean ====
section
/-! DEFINITION. What a unit of this hardware fixes: the constants of R7, the geometry of R8, the variant that the
reset state carries, and the free values that stand for the elements a `RESET` leaves unspecified (R42, R192). -/

namespace Sys2Proof.Config

/-- `NSLOT`: angle slots per scan (R7). -/
abbrev nslot : Nat := 360

/-- `HDR`: the packet header byte (R7). -/
abbrev hdr : Byte := 0xFA

/-- `IDX_BASE`: the index byte of packet 0 (R7, R76). -/
abbrev idxBase : Byte := 0xA0

/-- `IDX_MAX`: the largest packet index (R7, R76). -/
abbrev idxMax : Nat := 89

/-- `LSYNC`: the legacy start sequence `5A A5 00 C0`, by position (R7, R72). -/
def lsync (n : BitVec 2) : Byte :=
  if n = 0 then 0x5A else if n = 1 then 0xA5 else if n = 2 then 0x00 else 0xC0

/-- `LBODY_LEN`: bytes of a legacy body (R7). -/
abbrev lbodyLen : Nat := 1440

/-- `PBLOCK_LEN`: bytes of a packetized block, the two sync bytes included (R7, R74). -/
abbrev pblockLen : Nat := 1980

/-- `PKT_LEN`: bytes of a packet (R7, R75). -/
abbrev pktLen : Nat := 22

/-- `RAW_LEN`: bytes of the raw buffer, by variant (R21, R50). -/
def rawLen : Variant → Nat
  | .legacy => lbodyLen
  | .packetized => pblockLen

/-- `L_TI_DIV`: the legacy divisor from raw speed to `time_increment` (R7). -/
abbrev lTiDiv : ℚ := 100000000

/-- `RPM_DIV`: raw speed units per RPM (R7). -/
abbrev rpmDiv : ℚ := 64

/-- `MM_PER_M`: millimetres per metre (R7). -/
abbrev mmPerM : ℚ := 1000

/-- The variant that `State.reset` carries. DESIGN CHOICE, log 1: the spec leaves `VARIANT` to the constructor of
the unit (R6); every statement about the step holds for both values of the field. -/
def resetVariant : Variant := .legacy

/-- `fill_count` after the n-th `RESET` event: unspecified (R42, R192), a free value; log 3. -/
opaque freeFillCount : Nat → BitVec 11

/-- `speed_raw` after the n-th `RESET` event: unspecified (R42, R192), a free value; log 3. -/
opaque freeSpeedRaw : Nat → BitVec 16

/-- `speed_sum` after the n-th `RESET` event: unspecified (R42, R192), a free value; log 3. -/
opaque freeSpeedSum : Nat → BitVec 23

/-- `good_packets` after the n-th `RESET` event: unspecified (R42, R192), a free value; log 3. -/
opaque freeGoodPackets : Nat → BitVec 7

/-- The slot of an angle after the n-th `RESET` event: unspecified (R42, R192), a free value; log 3. -/
opaque freeSlot : Nat → Nat → Slot

end Sys2Proof.Config

namespace Sys2Proof

/-- The geometry constants of a Scan record (R8). The three angles are exact rational multiples of π radians (the
coefficient is held), the two bounds are metres; log 14. -/
structure Geometry where
  angleMin : ℚ
  angleMax : ℚ
  angleIncrement : ℚ
  rangeMin : ℚ
  rangeMax : ℚ
deriving DecidableEq, Repr, Inhabited

/-- The per-variant geometry: Legacy 0, 2π, 2π/360, 0.06 m, 5.0 m; Packetized 0, 2π − 1°, 1°, 0.15 m, 5.0 m (R8). -/
def Config.geometry : Variant → Geometry
  | .legacy => ⟨0, 2, 2 / 360, 6 / 100, 5⟩
  | .packetized => ⟨0, 2 - 1 / 180, 1 / 180, 15 / 100, 5⟩

end Sys2Proof
end

