-- ==== Sys2Proof/Syntax.lean ====
section
/-! DEFINITION. The operations of the unit (one constructor per row of `spec/opcode_table.json`), the formats of their
keys, and the keys themselves (R80). -/

namespace Sys2Proof

/-- The operations. A constructor's arguments are the letters of its row's pattern that carry meaning; don't-care
letters are not kept. -/
inductive Instr where
  /-- `POLL` (R190): starts one `poll()`; `v` is the variant bit of its key. -/
  | poll (v : Variant)
  /-- `FAIL` (R191): the transport failure; `v`, `pp` are the variant and phase bits of its key. -/
  | fail (v : Variant) (pp : Phase)
  /-- `RESET` (R192); `v`, `pp` are the variant and phase bits of its key. -/
  | reset (v : Variant) (pp : Phase)
  /-- `LS0` (R121): first start byte `5A`. -/
  | ls0
  /-- `LS1` (R122): second start byte `A5`. -/
  | ls1
  /-- `LS2` (R123): third start byte `00`. -/
  | ls2
  /-- `LS3` (R124): fourth start byte `C0`, full match. -/
  | ls3
  /-- `LMISS` (R125): mismatch at count `cc` with byte `b`. -/
  | lmiss (cc : BitVec 2) (b : Byte)
  /-- `LSPD0` (R130): low speed byte. -/
  | lspd0 (b : Byte)
  /-- `LSPD1` (R131): high speed byte. -/
  | lspd1 (b : Byte)
  /-- `LBODY` (R132): body byte. -/
  | lbody (b : Byte)
  /-- `PS0` (R140): header byte `FA` of the first sync. -/
  | ps0
  /-- `PS1` (R141): index byte `A0` of the first sync, full match. -/
  | ps1
  /-- `PMISS` (R142): mismatch at count `c` with byte `b`. -/
  | pmiss (c : BitVec 1) (b : Byte)
  /-- `PFILL` (R143): block byte. -/
  | pfill (b : Byte)
  /-- `IDXDEC.A0_BF` (R85, R108): packet index `p`. -/
  | idxdecA0Bf (p : BitVec 5)
  /-- `IDXDEC.C0_DF` (R85, R108): packet index `32 + p`. -/
  | idxdecC0Df (p : BitVec 5)
  /-- `IDXDEC.E0_EF` (R85, R108): packet index `64 + p`. -/
  | idxdecE0Ef (p : BitVec 4)
  /-- `IDXDEC.F0_F7` (R85, R108): packet index `80 + p`. -/
  | idxdecF0F7 (p : BitVec 3)
  /-- `IDXDEC.F8_F9` (R85, R108): packet index `88 + p`. -/
  | idxdecF8F9 (p : BitVec 1)
  /-- `IDXDEC.NONE` (R108): the pair `h x` is no candidate. -/
  | idxdecNone (h x : Byte)
  /-- `WSKIP` (R154): byte-level resynchronisation. -/
  | wskip
  /-- `WCORRUPT` (R155): premature header inside a candidate packet. -/
  | wcorrupt
  /-- `WACCEPT` (R156): structurally valid packet. -/
  | waccept
  /-- `SAMPLE` (R106): one RawSample into a slot record. -/
  | sample (b0 b1 b2 b3 : Byte)
  /-- `RANGE` (R101): 14-bit range slicer. -/
  | range (b0 b1 : Byte)
  /-- `TOOCLOSE` (R103): flag slicer. -/
  | tooclose (b1 : Byte)
  /-- `NORETURN` (R104): flag slicer. -/
  | noreturn (b1 : Byte)
  /-- `INTENS` (R105): 16-bit intensity load. -/
  | intens (b2 b3 : Byte)
  /-- `LE16` (R100): 16-bit little-endian load. -/
  | le16 (lo hi : Byte)
  /-- `SPEED16` (R107): speed-field load. -/
  | speed16 (s0 s1 : Byte)
  /-- `ANGLE` (R109): angle of sample `o` of packet `idx`. -/
  | angle (idx : BitVec 7) (o : BitVec 2)
  /-- `LDECODE` (R133): decode the legacy body. -/
  | ldecode
  /-- `WALK` (R152): the packetized walk. -/
  | walk
  /-- `REINIT` (R170): reset all slots. -/
  | reinit
  /-- `SLOTWR` (R171): write slot `a`. -/
  | slotwr (a : BitVec 9) (rec : Slot)
  /-- `COMPLETE` (R181): end of a successful `poll()`. -/
  | complete
deriving DecidableEq, Repr

/-- The row names of `spec/opcode_table.json`. -/
inductive Op where
  | poll | fail | reset
  | ls0 | ls1 | ls2 | ls3 | lmiss | lspd0 | lspd1 | lbody
  | ps0 | ps1 | pmiss | pfill
  | idxdecA0Bf | idxdecC0Df | idxdecE0Ef | idxdecF0F7 | idxdecF8F9 | idxdecNone
  | wskip | wcorrupt | waccept
  | sample | range | tooclose | noreturn | intens
  | le16 | speed16 | angle
  | ldecode | walk | reinit | slotwr | complete
deriving DecidableEq, Repr

/-- The row an operation belongs to. -/
def Instr.op : Instr → Op
  | .poll _ => .poll
  | .fail _ _ => .fail
  | .reset _ _ => .reset
  | .ls0 => .ls0
  | .ls1 => .ls1
  | .ls2 => .ls2
  | .ls3 => .ls3
  | .lmiss _ _ => .lmiss
  | .lspd0 _ => .lspd0
  | .lspd1 _ => .lspd1
  | .lbody _ => .lbody
  | .ps0 => .ps0
  | .ps1 => .ps1
  | .pmiss _ _ => .pmiss
  | .pfill _ => .pfill
  | .idxdecA0Bf _ => .idxdecA0Bf
  | .idxdecC0Df _ => .idxdecC0Df
  | .idxdecE0Ef _ => .idxdecE0Ef
  | .idxdecF0F7 _ => .idxdecF0F7
  | .idxdecF8F9 _ => .idxdecF8F9
  | .idxdecNone _ _ => .idxdecNone
  | .wskip => .wskip
  | .wcorrupt => .wcorrupt
  | .waccept => .waccept
  | .sample _ _ _ _ => .sample
  | .range _ _ => .range
  | .tooclose _ => .tooclose
  | .noreturn _ => .noreturn
  | .intens _ _ => .intens
  | .le16 _ _ => .le16
  | .speed16 _ _ => .speed16
  | .angle _ _ => .angle
  | .ldecode => .ldecode
  | .walk => .walk
  | .reinit => .reinit
  | .slotwr _ _ => .slotwr
  | .complete => .complete

/-- The key formats of R80. -/
inductive Format where
  | event | byteKey | walk1 | walk2 | sample32 | pair16 | angle9 | subop
deriving DecidableEq, Repr

/-- The format each row of the table is written in. -/
def Op.format : Op → Format
  | .poll | .fail | .reset => .event
  | .ls0 | .ls1 | .ls2 | .ls3 | .lmiss | .lspd0 | .lspd1 | .lbody => .byteKey
  | .ps0 | .ps1 | .pmiss | .pfill => .byteKey
  | .idxdecA0Bf | .idxdecC0Df | .idxdecE0Ef | .idxdecF0F7 | .idxdecF8F9 | .idxdecNone => .walk1
  | .wskip | .wcorrupt | .waccept => .walk2
  | .sample | .range | .tooclose | .noreturn | .intens => .sample32
  | .le16 | .speed16 => .pair16
  | .angle => .angle9
  | .ldecode | .walk | .reinit | .slotwr | .complete => .subop

/-- The SAMPLE32 decoders share one pattern of bits; the invoking operation names the one it wants. -/
inductive SampleOp where
  | sample | range | tooclose | noreturn | intens
deriving DecidableEq, Repr

/-- The PAIR16 decoders share one pattern of bits; the invoking operation names the one it wants. -/
inductive PairOp where
  | le16 | speed16
deriving DecidableEq, Repr

/-- The sub-operations: no key bits, invoked by name (R80). SLOTWR comes with its operands (R171). -/
inductive SubOp where
  | ldecode | walk | reinit
  | slotwr (a : BitVec 9) (rec : Slot)
  | complete
deriving DecidableEq, Repr

/-- A key (R80): the bits an operation is selected by, in the format they stand in. -/
inductive Key where
  /-- `kk v pp`. -/
  | event (w : BitVec 5)
  /-- `kk v pp cc bbbbbbbb`. -/
  | byteKey (w : BitVec 15)
  /-- `raw[i] raw[i+1]`. -/
  | walk1 (w : BitVec 16)
  /-- `candidate premature`. -/
  | walk2 (w : BitVec 2)
  /-- `byte3 byte2 byte1 byte0`. -/
  | sample32 (f : SampleOp) (w : BitVec 32)
  /-- The byte at the higher offset, then the byte at the lower. -/
  | pair16 (f : PairOp) (w : BitVec 16)
  /-- `packet_index`, then the sample number. -/
  | angle9 (w : BitVec 9)
  /-- No bits. -/
  | subop (f : SubOp)
  /-- A word of a length that no format of the table has; nothing decodes it. -/
  | noFormat (nbits w : Nat)
deriving DecidableEq, Repr

/-- The format of a key, none for a word of no format. -/
def Key.format? : Key → Option Format
  | .event _ => some .event
  | .byteKey _ => some .byteKey
  | .walk1 _ => some .walk1
  | .walk2 _ => some .walk2
  | .sample32 _ _ => some .sample32
  | .pair16 _ _ => some .pair16
  | .angle9 _ => some .angle9
  | .subop _ => some .subop
  | .noFormat _ _ => none

end Sys2Proof
end

