-- ==== Sys2Proof/WellFormed.lean ====
section
/-! DEFINITION. Which instruction terms stand for a key of the table: the default rows exclude what the fixed rows of
their map take, and indices and angles stay in range. -/

namespace Sys2Proof

/-- Whether `(cc, b)` is a key of `LS0` .. `LS3` (R81). -/
def Instr.isLegacyMatch (cc : BitVec 2) (b : Byte) : Bool := b == Config.lsync cc

/-- Whether `(c, b)` is a key of `PS0` or `PS1` (R83). -/
def Instr.isPacketMatch (c : BitVec 1) (b : Byte) : Bool :=
  (c == 0 && b == 0xFA) || (c == 1 && b == 0xA0)

/-- Whether `h x` is one of the 90 pairs `FA A0` .. `FA F9` (R85). -/
def Instr.isCandidatePair (h x : Byte) : Bool :=
  h == Config.hdr && decide (0xA0 ≤ x.toNat) && decide (x.toNat ≤ 0xF9)

/-- Well-formedness: the checks the table's patterns and constraints put on the arguments. -/
def Instr.wellFormed : Instr → Bool
  | .fail _ pp => pp != .idle
  | .lmiss cc b => !Instr.isLegacyMatch cc b
  | .pmiss c b => !Instr.isPacketMatch c b
  | .idxdecNone h x => !Instr.isCandidatePair h x
  | .angle idx _ => decide (idx.toNat ≤ Config.idxMax)
  | .slotwr a _ => decide (a.toNat < Config.nslot)
  | .poll _ | .reset _ _ => true
  | .ls0 | .ls1 | .ls2 | .ls3 | .lspd0 _ | .lspd1 _ | .lbody _ => true
  | .ps0 | .ps1 | .pfill _ => true
  | .idxdecA0Bf _ | .idxdecC0Df _ | .idxdecE0Ef _ | .idxdecF0F7 _ | .idxdecF8F9 _ => true
  | .wskip | .wcorrupt | .waccept => true
  | .sample _ _ _ _ | .range _ _ | .tooclose _ | .noreturn _ | .intens _ _ => true
  | .le16 _ _ | .speed16 _ _ => true
  | .ldecode | .walk | .reinit | .complete => true

end Sys2Proof
end

