-- ==== Sys2Proof/Decode.lean ====
section
/-! DEFINITION. From keys to operations and back (R80 to R87), the opcode table's bit patterns, and the host's reading
of a bare table word. -/

namespace Sys2Proof

/-- The variant bit `v` of a key (R80). -/
def Variant.code : Variant → BitVec 1
  | .legacy => 0
  | .packetized => 1

/-- The variant of a bit `v`. -/
def Variant.ofCode (v : BitVec 1) : Variant := if v = 0 then .legacy else .packetized

/-- The phase bits `pp` of a key (R80). -/
def Phase.code : Phase → BitVec 2
  | .idle => 0
  | .search => 1
  | .speed => 2
  | .fill => 3

/-- The phase of the bits `pp`. -/
def Phase.ofCode (p : BitVec 2) : Phase :=
  if p = 0 then .idle else if p = 1 then .search else if p = 2 then .speed else .fill

/-- Why a key selects no operation. -/
inductive DecodeError where
  /-- `POLL` with `pp` other than IDLE: refused (R38). -/
  | pollWhileBusy
  /-- `FAIL` with `pp` = IDLE: held, never an operation (R38, R191). -/
  | failWhileIdle
  /-- `BYTE` with `pp` = IDLE: held, never an operation (R38). -/
  | byteWhileIdle
  /-- An EVENT key of kind `00`: `BYTE` has no EVENT format (R80). -/
  | noSuchEvent
  /-- A BYTEKEY key of a kind other than `00` (R80). -/
  | noByteKind
  /-- PACKETIZED with SPEED: unreachable (R193). -/
  | packetizedSpeed
  /-- A sub-state `1x` where R80 writes `0x`. -/
  | badSubState
  /-- A packet index above 89 (R109). -/
  | indexOutOfRange
  /-- An angle above 359 (R171). -/
  | angleOutOfRange
  /-- A word whose length is no format's. -/
  | noFormat
deriving DecidableEq, Repr

/-- The EVENT map: `10v00` POLL, `01vpp` FAIL with `pp` not IDLE, `11vpp` RESET (R80, R86). -/
def decodeEvent (w : BitVec 5) : Except DecodeError Instr :=
  let kk := w.extractLsb' 3 2
  let v := Variant.ofCode (w.extractLsb' 2 1)
  let pp := w.extractLsb' 0 2
  if kk = 2 then (if pp = 0 then .ok (.poll v) else .error .pollWhileBusy)
  else if kk = 1 then (if pp = 0 then .error .failWhileIdle else .ok (.fail v (Phase.ofCode pp)))
  else if kk = 3 then .ok (.reset v (Phase.ofCode pp))
  else .error .noSuchEvent

/-- The legacy SEARCH map (R81). -/
def decodeLegacySearch (cc : BitVec 2) (b : Byte) : Instr :=
  if cc = 0 ∧ b = 0x5A then .ls0
  else if cc = 1 ∧ b = 0xA5 then .ls1
  else if cc = 2 ∧ b = 0x00 then .ls2
  else if cc = 3 ∧ b = 0xC0 then .ls3
  else .lmiss cc b

/-- The packetized SEARCH map (R83). -/
def decodePacketSearch (c : BitVec 1) (b : Byte) : Instr :=
  if c = 0 ∧ b = 0xFA then .ps0
  else if c = 1 ∧ b = 0xA0 then .ps1
  else .pmiss c b

/-- The BYTEKEY map: `kk v pp cc bbbbbbbb` (R80 to R84, R193). -/
def decodeByteKey (w : BitVec 15) : Except DecodeError Instr :=
  let kk := w.extractLsb' 13 2
  let v := w.extractLsb' 12 1
  let pp := w.extractLsb' 10 2
  let cc := w.extractLsb' 8 2
  let b := w.extractLsb' 0 8
  if kk ≠ 0 then .error .noByteKind
  else match Variant.ofCode v, Phase.ofCode pp with
    | .legacy, .search => .ok (decodeLegacySearch cc b)
    | .legacy, .speed =>
      if cc = 0 then .ok (.lspd0 b) else if cc = 1 then .ok (.lspd1 b) else .error .badSubState
    | .legacy, .fill => .ok (.lbody b)
    | .packetized, .search =>
      if cc.extractLsb' 1 1 = 0 then .ok (decodePacketSearch (cc.extractLsb' 0 1) b)
      else .error .badSubState
    | .packetized, .speed => .error .packetizedSpeed
    | .packetized, .fill => .ok (.pfill b)
    | _, .idle => .error .byteWhileIdle

/-- The WALK1 map: the five index patterns after `FA`, and the default row (R85). -/
def decodeWalk1 (w : BitVec 16) : Instr :=
  let h := w.extractLsb' 8 8
  let x := w.extractLsb' 0 8
  if h = 0xFA ∧ x.extractLsb' 5 3 = 0b101 then .idxdecA0Bf (x.extractLsb' 0 5)
  else if h = 0xFA ∧ x.extractLsb' 5 3 = 0b110 then .idxdecC0Df (x.extractLsb' 0 5)
  else if h = 0xFA ∧ x.extractLsb' 4 4 = 0b1110 then .idxdecE0Ef (x.extractLsb' 0 4)
  else if h = 0xFA ∧ x.extractLsb' 3 5 = 0b11110 then .idxdecF0F7 (x.extractLsb' 0 3)
  else if h = 0xFA ∧ x.extractLsb' 1 7 = 0b1111100 then .idxdecF8F9 (x.extractLsb' 0 1)
  else .idxdecNone h x

/-- The WALK2 map: `0x` WSKIP, `11` WCORRUPT, `10` WACCEPT (R85). -/
def decodeWalk2 (w : BitVec 2) : Instr :=
  if w.extractLsb' 1 1 = 0 then .wskip else if w.extractLsb' 0 1 = 1 then .wcorrupt else .waccept

/-- A SAMPLE32 word is `byte3 byte2 byte1 byte0`; the named decoder takes the bytes it reads (R77). -/
def decodeSample32 (f : SampleOp) (w : BitVec 32) : Instr :=
  let b0 := w.extractLsb' 0 8
  let b1 := w.extractLsb' 8 8
  let b2 := w.extractLsb' 16 8
  let b3 := w.extractLsb' 24 8
  match f with
  | .sample => .sample b0 b1 b2 b3
  | .range => .range b0 b1
  | .tooclose => .tooclose b1
  | .noreturn => .noreturn b1
  | .intens => .intens b2 b3

/-- A PAIR16 word is the byte at the higher offset, then the byte at the lower (R100, R107). -/
def decodePair16 (f : PairOp) (w : BitVec 16) : Instr :=
  match f with
  | .le16 => .le16 (w.extractLsb' 0 8) (w.extractLsb' 8 8)
  | .speed16 => .speed16 (w.extractLsb' 0 8) (w.extractLsb' 8 8)

/-- An ANGLE9 word is `packet_index`, then the sample number (R109). -/
def decodeAngle9 (w : BitVec 9) : Except DecodeError Instr :=
  if (w.extractLsb' 2 7).toNat ≤ Config.idxMax then .ok (.angle (w.extractLsb' 2 7) (w.extractLsb' 0 2))
  else .error .indexOutOfRange

/-- A sub-operation is named by its invoker (R80). -/
def decodeSubop : SubOp → Except DecodeError Instr
  | .ldecode => .ok .ldecode
  | .walk => .ok .walk
  | .reinit => .ok .reinit
  | .slotwr a rec => if a.toNat < Config.nslot then .ok (.slotwr a rec) else .error .angleOutOfRange
  | .complete => .ok .complete

/-- The decoder: total, exactly one operation or a named rejection (R87). -/
def decode : Key → Except DecodeError Instr
  | .event w => decodeEvent w
  | .byteKey w => decodeByteKey w
  | .walk1 w => .ok (decodeWalk1 w)
  | .walk2 w => .ok (decodeWalk2 w)
  | .sample32 f w => .ok (decodeSample32 f w)
  | .pair16 f w => .ok (decodePair16 f w)
  | .angle9 w => decodeAngle9 w
  | .subop f => decodeSubop f
  | .noFormat _ _ => .error .noFormat

/-- The EVENT word `kk v pp`. -/
def eventWord (kk : BitVec 2) (v : Variant) (pp : Phase) : BitVec 5 := kk ++ v.code ++ pp.code

/-- The BYTEKEY word `00 v pp cc bbbbbbbb`. -/
def byteKeyWord (v : Variant) (pp : Phase) (cc : BitVec 2) (b : Byte) : BitVec 15 :=
  0#2 ++ v.code ++ pp.code ++ cc ++ b

/-- The encoder: the key of a well-formed operation, every don't-care bit zero. -/
def encode : Instr → Key
  | .poll v => .event (eventWord 2 v .idle)
  | .fail v pp => .event (eventWord 1 v pp)
  | .reset v pp => .event (eventWord 3 v pp)
  | .ls0 => .byteKey (byteKeyWord .legacy .search 0 0x5A)
  | .ls1 => .byteKey (byteKeyWord .legacy .search 1 0xA5)
  | .ls2 => .byteKey (byteKeyWord .legacy .search 2 0x00)
  | .ls3 => .byteKey (byteKeyWord .legacy .search 3 0xC0)
  | .lmiss cc b => .byteKey (byteKeyWord .legacy .search cc b)
  | .lspd0 b => .byteKey (byteKeyWord .legacy .speed 0 b)
  | .lspd1 b => .byteKey (byteKeyWord .legacy .speed 1 b)
  | .lbody b => .byteKey (byteKeyWord .legacy .fill 0 b)
  | .ps0 => .byteKey (byteKeyWord .packetized .search 0 0xFA)
  | .ps1 => .byteKey (byteKeyWord .packetized .search 1 0xA0)
  | .pmiss c b => .byteKey (byteKeyWord .packetized .search (0#1 ++ c) b)
  | .pfill b => .byteKey (byteKeyWord .packetized .fill 0 b)
  | .idxdecA0Bf p => .walk1 (0xFA#8 ++ 0b101#3 ++ p)
  | .idxdecC0Df p => .walk1 (0xFA#8 ++ 0b110#3 ++ p)
  | .idxdecE0Ef p => .walk1 (0xFA#8 ++ 0b1110#4 ++ p)
  | .idxdecF0F7 p => .walk1 (0xFA#8 ++ 0b11110#5 ++ p)
  | .idxdecF8F9 p => .walk1 (0xFA#8 ++ 0b1111100#7 ++ p)
  | .idxdecNone h x => .walk1 (h ++ x)
  | .wskip => .walk2 0b00
  | .wcorrupt => .walk2 0b11
  | .waccept => .walk2 0b10
  | .sample b0 b1 b2 b3 => .sample32 .sample (b3 ++ b2 ++ b1 ++ b0)
  | .range b0 b1 => .sample32 .range (0#16 ++ b1 ++ b0)
  | .tooclose b1 => .sample32 .tooclose (0#16 ++ b1 ++ 0#8)
  | .noreturn b1 => .sample32 .noreturn (0#16 ++ b1 ++ 0#8)
  | .intens b2 b3 => .sample32 .intens (b3 ++ b2 ++ 0#16)
  | .le16 lo hi => .pair16 .le16 (hi ++ lo)
  | .speed16 s0 s1 => .pair16 .speed16 (s1 ++ s0)
  | .angle idx o => .angle9 (idx ++ o)
  | .ldecode => .subop .ldecode
  | .walk => .subop .walk
  | .reinit => .subop .reinit
  | .slotwr a rec => .subop (.slotwr a rec)
  | .complete => .subop .complete

/-- A row of the opcode table whose pattern has fixed bits: `mask` marks them, `value` gives them. -/
structure Row where
  op : Op
  mask : Nat
  value : Nat
  isDefault : Bool
deriving DecidableEq, Repr

/-- Whether a word matches a row's fixed bits. -/
def Row.hits (r : Row) (w : Nat) : Bool := w &&& r.mask == r.value

/-- The EVENT rows of the table, as it prints their patterns. -/
def eventRows : List Row :=
  [⟨.poll, 0b11011, 0b10000, false⟩, ⟨.fail, 0b11000, 0b01000, false⟩, ⟨.reset, 0b11000, 0b11000, false⟩]

/-- The BYTEKEY rows of the table, as it prints their patterns; the two default rows apply where no other row does. -/
def byteKeyRows : List Row :=
  [⟨.ls0, 0b111111111111111, 0b000010001011010, false⟩,
   ⟨.ls1, 0b111111111111111, 0b000010110100101, false⟩,
   ⟨.ls2, 0b111111111111111, 0b000011000000000, false⟩,
   ⟨.ls3, 0b111111111111111, 0b000011111000000, false⟩,
   ⟨.lmiss, 0b111110000000000, 0b000010000000000, true⟩,
   ⟨.lspd0, 0b111111100000000, 0b000100000000000, false⟩,
   ⟨.lspd1, 0b111111100000000, 0b000100100000000, false⟩,
   ⟨.lbody, 0b111110000000000, 0b000110000000000, false⟩,
   ⟨.ps0, 0b111111111111111, 0b001010011111010, false⟩,
   ⟨.ps1, 0b111111111111111, 0b001010110100000, false⟩,
   ⟨.pmiss, 0b111111000000000, 0b001010000000000, true⟩,
   ⟨.pfill, 0b111110000000000, 0b001110000000000, false⟩]

/-- The WALK1 rows of the table, as it prints their patterns. -/
def walk1Rows : List Row :=
  [⟨.idxdecA0Bf, 0b1111111111100000, 0b1111101010100000, false⟩,
   ⟨.idxdecC0Df, 0b1111111111100000, 0b1111101011000000, false⟩,
   ⟨.idxdecE0Ef, 0b1111111111110000, 0b1111101011100000, false⟩,
   ⟨.idxdecF0F7, 0b1111111111111000, 0b1111101011110000, false⟩,
   ⟨.idxdecF8F9, 0b1111111111111110, 0b1111101011111000, false⟩,
   ⟨.idxdecNone, 0, 0, true⟩]

/-- The WALK2 rows of the table, as it prints their patterns. -/
def walk2Rows : List Row :=
  [⟨.wskip, 0b10, 0b00, false⟩, ⟨.wcorrupt, 0b11, 0b11, false⟩, ⟨.waccept, 0b11, 0b10, false⟩]

/-- Two rows whose fixed bits no word can match together. -/
def Row.disjoint (r q : Row) : Bool := r.value &&& (r.mask &&& q.mask) != q.value &&& (r.mask &&& q.mask)

/-- The row the table gives a word: the first row that is not a default and matches, else the default row that
matches (R80, R87). -/
def rowFor (rows : List Row) (w : Nat) : Option Op :=
  match rows.find? (fun r => !r.isDefault && r.hits w) with
  | some r => some r.op
  | none => (rows.find? (fun r => r.isDefault && r.hits w)).map Row.op

/-- The key a bare word of the opcode table stands for. A length shared by several formats is settled by the bits:
of the one-byte words 0 to 3 are WALK2 and the others EVENT; of the two-byte words those with bit 15 clear that a
BYTEKEY row takes are BYTEKEY, other words below 360 are ANGLE9, and the rest, every word with bit 15 set among them,
WALK1. DESIGN CHOICE, log 11. -/
def tableKey (nbits w : Nat) : Key :=
  if nbits = 2 ∧ w < 4 then .walk2 (BitVec.ofNat 2 w)
  else if nbits = 5 ∧ w < 32 then .event (BitVec.ofNat 5 w)
  else if nbits = 8 ∧ w < 4 then .walk2 (BitVec.ofNat 2 w)
  else if nbits = 8 ∧ w < 32 then .event (BitVec.ofNat 5 w)
  else if nbits = 9 ∧ w < 512 then .angle9 (BitVec.ofNat 9 w)
  else if nbits = 15 ∧ w < 32768 then .byteKey (BitVec.ofNat 15 w)
  else if nbits = 16 ∧ w < 65536 then
    (if w < 32768 ∧ (rowFor byteKeyRows w).isSome then .byteKey (BitVec.ofNat 15 w)
     else if w < 360 then .angle9 (BitVec.ofNat 9 w)
     else .walk1 (BitVec.ofNat 16 w))
  else if nbits = 32 ∧ w < 4294967296 then .sample32 .sample (BitVec.ofNat 32 w)
  else .noFormat nbits w

/-- The instruction the decoder reads from a bare word of the opcode table. -/
def decodeTableWord (nbits w : Nat) : Option Instr :=
  match decode (tableKey nbits w) with
  | .ok i => some i
  | .error _ => none

end Sys2Proof
end

