-- ==== Sys2Proof/Machine/State.lean ====
section
/-! DEFINITION. The state of the unit (R21), the environment's offers, the reasons a step can stop, and reset (R42). -/

namespace Sys2Proof.Machine

/-- The raw buffer's contents: the offsets that hold a byte, in strictly rising order. An offset that is not listed
has no value (R42, U3); log 4. -/
abbrev Memory := List Host.Cell

/-- An event of the byte source (R38). -/
inductive SourceEvent where
  | byte (b : Byte)
  | fail
deriving DecidableEq, Repr

/-- What the environment offers next: the host's `POLL` and `RESET`, an event of the byte source (R38), or, outside
every event, one operation invoked on its own by its key (the model's own port; log 6). -/
inductive Offer where
  | poll
  | reset
  | source (e : SourceEvent)
  | direct (k : Key)
deriving DecidableEq, Repr

/-- The telemetry of a Scan record: the fields marked (L) or (P) of R180. -/
inductive Telemetry where
  | legacy (speedRaw : BitVec 16)
  | packetized (speedSum : BitVec 23) (goodPackets : BitVec 7)
deriving DecidableEq, Repr

/-- The Scan record (R180). Its rational fields are views of these integers (R174), in `Machine/Views.lean`. -/
structure Scan where
  samples : Vector Slot 360
  geometry : Geometry
  telemetry : Telemetry
deriving DecidableEq, Repr

/-- The surfaced errors (R200): only (a) TransportFailure is ever stored. -/
inductive Failure where
  | transportFailure
deriving DecidableEq, Repr

/-- `result`: what the last `poll()` returned (R32). -/
inductive PollResult where
  | none
  | scan (s : Scan)
  | failure (f : Failure)
deriving DecidableEq, Repr

/-- An entry of the event log (R37): a store to `raw`, or a slot write with its angle. -/
inductive LogEntry where
  | store (j : Nat) (b : Byte)
  | slot (a : Nat) (rec : Slot)
deriving DecidableEq, Repr

/-- The locals of a step, and the answers of the pure decoders when one is invoked on its own; logs 6 and 7. -/
structure Locals where
  /-- The cursor `i` of the walk (R24). -/
  cursor : Nat
  /-- The local `stop` of the walk (R152). -/
  stop : Bool
  /-- The candidate test's answer: the bit `candidate` of the WALK2 key (R85, R108). -/
  candidate : Bool
  /-- The packet index of the last candidate (R108). -/
  idx : BitVec 7
  /-- The premature-header scan's answer: the bit `premature` of the WALK2 key (R85). -/
  premature : Bool
  /-- `k_min` of the last premature header (R155). -/
  kMin : Nat
  /-- The answer of `LE16` (R100). -/
  le16 : BitVec 16
  /-- The answer of `RANGE` (R101). -/
  range : BitVec 14
  /-- The answer of `TOOCLOSE` (R103). -/
  tooClose : Bool
  /-- The answer of `NORETURN` (R104). -/
  noReturn : Bool
  /-- The answer of `INTENS` (R105). -/
  intens : BitVec 16
  /-- The answer of `SAMPLE` (R106). -/
  sample : Slot
  /-- The answer of `SPEED16` (R107). -/
  speed : BitVec 16
  /-- The answer of `ANGLE` (R109). -/
  angle : BitVec 9
deriving DecidableEq, Repr

/-- The locals before any operation has used them, and after a walk has discarded its own (R24). -/
def Locals.init : Locals :=
  ⟨0, false, false, 0, false, 0, 0, 0, false, false, 0, Slot.zero, 0, 0⟩

/-- Every reason the machine stops with a fault. No run of events from reset reaches one (R58). -/
inductive Fault where
  /-- Raised by a read of a raw byte that nothing has written since reset (R42, U3: a fault of the model). Safe. -/
  | unwrittenByte
  /-- Raised by an access to `raw` outside `0 .. RAW_LEN - 1` (R58, U14). Safe. -/
  | rawBounds
  /-- Raised by a write to a slot outside `0 .. 359` (R58). Safe. -/
  | slotBounds
deriving DecidableEq, Repr

/-- Every reason a step gives an event or a key no meaning. -/
inductive Refusal where
  /-- Raised by `exec`'s arm of an instruction without a meaning; no arm of this model uses it. Safe. -/
  | notModelled (mnemonic : String)
  /-- Raised by `POLL` while a `poll()` is outstanding (R38, U1: refused). Safe. -/
  | pollWhileBusy
  /-- Raised by a step whose key selects no operation (R80, R193). Safe. -/
  | undecodable (e : DecodeError)
deriving DecidableEq, Repr

/-- The state. The fields from `phase` to `result` are the unit's (R21); `variant` is its construction parameter
(R6); the others are the model's own. -/
structure State where
  /-- `VARIANT` (R6): written by no operation; log 1. -/
  variant : Variant
  /-- Coarse control state (R22). -/
  phase : Phase
  /-- Sync state (R23). -/
  startCount : BitVec 2
  /-- Offset of the next byte of a fixed-length read (R25). -/
  fillCount : BitVec 11
  /-- Raw buffer (R29, R50). -/
  raw : Memory
  /-- Legacy speed telemetry (R26). -/
  speedRaw : BitVec 16
  /-- Sum of the accepted packets' raw speeds (R27). -/
  speedSum : BitVec 23
  /-- Count of accepted packets (R28). -/
  goodPackets : BitVec 7
  /-- Scan accumulator (R31, R51). -/
  acc : Vector Slot 360
  /-- What the last `poll()` returned (R32). -/
  result : PollResult
  /-- What the environment will offer, in order (R35); log 5. -/
  offers : List Offer
  /-- Byte-source events held while IDLE, oldest first (R38, R90); log 5. -/
  held : List SourceEvent
  /-- Locals of a step (R24, R152); log 7. -/
  locals : Locals
  /-- The event log (R37), newest entry first; log 10. -/
  log : List LogEntry
  /-- How many `RESET` events have drawn free values; log 3. -/
  freeCount : Nat
deriving DecidableEq, Repr

/-- The machine right after construction (R42): IDLE, count 0, no result, nothing in `raw`. The registers R42 leaves
unspecified hold the values log 2 names, and the environment has offered nothing. -/
def State.reset : State where
  variant := Config.resetVariant
  phase := .idle
  startCount := 0
  fillCount := 0
  raw := []
  speedRaw := 0
  speedSum := 0
  goodPackets := 0
  acc := Vector.replicate 360 Slot.zero
  result := .none
  offers := []
  held := []
  locals := Locals.init
  log := []
  freeCount := 0

/-- What an operation answers. -/
abbrev Answer := Host.Outcome State Fault Refusal

end Sys2Proof.Machine
end

