-- ==== Sys2Proof/Machine/Flags.lean ====
section
/-! DEFINITION. The two per-sample flags (R33, R103, R104) and the three derived status predicates (R33). -/

namespace Sys2Proof.Machine

/-- `TOOCLOSE`: bit 6 of byte1 (R103). -/
def Flags.tooClose (b1 : Byte) : Bool := b1.getLsbD 6

/-- `NORETURN`: bit 7 of byte1 (R104). -/
def Flags.noReturn (b1 : Byte) : Bool := b1.getLsbD 7

/-- `busy`: a `poll()` is outstanding (R33). -/
def State.busy (s : State) : Bool := s.phase != .idle

/-- `done`: the last `poll()` returned a scan (R33). -/
def State.isDone (s : State) : Bool :=
  match s.result with
  | .scan _ => true
  | _ => false

/-- `failed`: the last `poll()` ended by a transport failure (R33). -/
def State.isFailed (s : State) : Bool :=
  match s.result with
  | .failure _ => true
  | _ => false

end Sys2Proof.Machine
end

