-- ==== Sys2Proof/Machine/Operands.lean ====
section
/-! DEFINITION. The pure field decoders: functions of bytes that read no state and write none (R100 to R109). -/

namespace Sys2Proof.Machine.Operands

/-- `LE16`: the byte at the lower offset is the low half (R100). -/
def le16 (lo hi : Byte) : BitVec 16 := hi ++ lo

/-- `RANGE`: bits 13..0 of the pair (R101). -/
def range (b0 b1 : Byte) : BitVec 14 := (le16 b0 b1).extractLsb' 0 14

/-- `INTENS`: the pair of byte2 and byte3, all 16 bits (R105). -/
def intens (b2 b3 : Byte) : BitVec 16 := le16 b2 b3

/-- `SPEED16`: the first byte is the low half (R107, the spec's decision D10). -/
def speed16 (s0 s1 : Byte) : BitVec 16 := le16 s0 s1

/-- `SAMPLE`: one RawSample into a slot record; the flags never alter the range or the intensity (R106). -/
def sample (b0 b1 b2 b3 : Byte) : Slot where
  rangeMm := range b0 b1
  tooClose := Flags.tooClose b1
  noReturn := Flags.noReturn b1
  intensity := intens b2 b3

/-- `IDXDEC`: the packet index of a candidate pair, none for any other pair (R108). -/
def idxdec (h x : Byte) : Option (BitVec 7) :=
  if h ≠ Config.hdr then none
  else if 0xA0 ≤ x.toNat ∧ x.toNat - 0xA0 ≤ Config.idxMax then some (BitVec.ofNat 7 (x.toNat - 0xA0))
  else none

/-- `ANGLE`: four times the packet index plus the sample number (R109). -/
def angle (idx : BitVec 7) (o : BitVec 2) : BitVec 9 := BitVec.ofNat 9 (4 * idx.toNat + o.toNat)

end Sys2Proof.Machine.Operands
end

