-- ==== Sys2Proof/Machine/Ops.lean ====
section
/-! DEFINITION. The named operations over the raw buffer, the slots, the control state and the environment that the
meanings share: memory, slot writes, the failure entry and the return from it, the packet walk, and forming the key of
the next operation. -/

namespace Sys2Proof.Machine

/-! ### Raw buffer (R50 to R58) -/

/-- The byte at an offset, none where nothing is listed. -/
def Memory.read : Memory → Nat → Option Byte
  | [], _ => none
  | (a, b) :: m, j => if j = a then some b else if j < a then none else Memory.read m j

/-- Store a byte at an offset, keeping the offsets strictly rising. -/
def Memory.write : Memory → Nat → Byte → Memory
  | [], j, x => [(j, x)]
  | (a, b) :: m, j, x =>
    if j = a then (a, x) :: m
    else if j < a then (j, x) :: (a, b) :: m
    else (a, b) :: Memory.write m j x

/-- The canonical form: offsets strictly rising. An unlisted offset has no value, so no entry equals one. -/
def Memory.wf : Memory → Bool
  | [] => true
  | [_] => true
  | (a, _) :: (c, d) :: m => decide (a < c) && Memory.wf ((c, d) :: m)

/-- Bytes of the raw buffer (R21). -/
def State.rawLen (s : State) : Nat := Config.rawLen s.variant

/-- `raw[j]`: a read outside the buffer, or of a byte never written, is a fault of the model (R58, U14; R42, U3). -/
def State.rawRead (s : State) (j : Nat) : Except Fault Byte :=
  if j < s.rawLen then
    match Memory.read s.raw j with
    | some b => .ok b
    | none => .error .unwrittenByte
  else .error .rawBounds

/-- `MemRead(j, 2)`: the little-endian pair (R13, R55). -/
def State.rawRead2 (s : State) (j : Nat) : Except Fault (BitVec 16) := do
  let lo ← s.rawRead j
  let hi ← s.rawRead (j + 1)
  return Operands.le16 lo hi

/-- `MemWrite(j, 1, b)`, noted in the event log (R13, R37). -/
def State.rawWrite (s : State) (j : Nat) (b : Byte) : Except Fault State :=
  if j < s.rawLen then .ok { s with raw := Memory.write s.raw j b, log := .store j b :: s.log }
  else .error .rawBounds

/-- `SAMPLE` of the four bytes at offset `j` (R106). -/
def State.sampleAt (s : State) (j : Nat) : Except Fault Slot := do
  let b0 ← s.rawRead j
  let b1 ← s.rawRead (j + 1)
  let b2 ← s.rawRead (j + 2)
  let b3 ← s.rawRead (j + 3)
  return Operands.sample b0 b1 b2 b3

/-! ### Scan accumulator (R170 to R172) -/

/-- All 360 slots at the default (R170). -/
def clearedSlots : Vector Slot 360 := Vector.replicate 360 Slot.zero

/-- Write the whole slot of angle `a`, noted in the event log (R171, R37). -/
def State.slotWrite (s : State) (a : Nat) (rec : Slot) : Except Fault State :=
  if h : a < 360 then .ok { s with acc := s.acc.set a rec h, log := .slot a rec :: s.log }
  else .error .slotBounds

/-- `REINIT`: every slot to the default (R170). The event log notes slot writes of R171 only (log 10). -/
def State.clearSlots (s : State) : State := { s with acc := clearedSlots }

/-! ### Completion (R180, R181) -/

/-- The telemetry a scan of this variant carries (R180). -/
def State.telemetry (s : State) : Telemetry :=
  match s.variant with
  | .legacy => .legacy s.speedRaw
  | .packetized => .packetized s.speedSum s.goodPackets

/-- The Scan record built from the current state, a copy by value (R180). -/
def State.scanRecord (s : State) : Scan := ⟨s.acc, Config.geometry s.variant, s.telemetry⟩

/-- `COMPLETE`: hand the scan over and return to IDLE (R181). -/
def State.finish (s : State) : State := { s with result := .scan s.scanRecord, phase := .idle }

/-! ### Failure entry and return from it (R204, R208, R209) -/

/-- Taking TransportFailure, the unit's one exception: exactly `result`, `start_count` and `phase` change (R204,
R208). -/
def State.raiseTransportFailure (s : State) : State :=
  { s with result := .failure .transportFailure, startCount := 0, phase := .idle }

/-- Starting a `poll()`, which is also the only return from a failure (R190, R209). -/
def State.startPoll (s : State) : State :=
  { s with acc := clearedSlots, speedSum := 0, goodPackets := 0, startCount := 0, result := .none, phase := .search }

/-- The state after `RESET`: R42's three values; every other element of R21 becomes unspecified, the registers as free
values and the raw buffer as bytes without a value (R192). What the byte source holds is not the unit's. -/
def State.resetUnit (s : State) : State :=
  { s with
    phase := .idle
    startCount := 0
    fillCount := Config.freeFillCount s.freeCount
    raw := []
    speedRaw := Config.freeSpeedRaw s.freeCount
    speedSum := Config.freeSpeedSum s.freeCount
    goodPackets := Config.freeGoodPackets s.freeCount
    acc := Vector.ofFn (fun a => Config.freeSlot s.freeCount a.val)
    result := .none
    locals := Locals.init
    freeCount := s.freeCount + 1 }

/-! ### Packet walk (R152 to R158) -/

/-- Record the candidate test's answer (R108). -/
def State.setCandidate (s : State) (c : Option (BitVec 7)) : State :=
  match c with
  | none => { s with locals := { s.locals with candidate := false } }
  | some idx => { s with locals := { s.locals with candidate := true, idx := idx } }

/-- Record the premature-header scan's answer (R85, R155). -/
def State.setPremature (s : State) (k : Option Nat) : State :=
  match k with
  | none => { s with locals := { s.locals with premature := false } }
  | some k => { s with locals := { s.locals with premature := true, kMin := k } }

/-- The packet offsets the premature-header scan covers, ascending: 2 to 21 (R155). -/
def scanOffsets : List Nat := List.range' 2 20

/-- The first of the given packet offsets at which `raw[i + k]` is a header byte (R155). -/
def State.firstHeader (s : State) (i : Nat) : List Nat → Except Fault (Option Nat)
  | [] => .ok none
  | k :: ks => do
    let b ← s.rawRead (i + k)
    if b = Config.hdr then return some k else s.firstHeader i ks

/-- `i <- i + n`. -/
def State.advance (s : State) (n : Nat) : State :=
  { s with locals := { s.locals with cursor := s.locals.cursor + n } }

/-- `stop <- true` (R156). -/
def State.setStop (s : State) : State := { s with locals := { s.locals with stop := true } }

/-- Add a packet's raw speed to the sum and count the packet (R156). -/
def State.countPacket (s : State) (speed : BitVec 16) : State :=
  { s with speedSum := s.speedSum + speed.zeroExtend 23, goodPackets := s.goodPackets + 1 }

/-- Sample `o` of the packet at `i`, into the slot of its angle (R156, R109). -/
def State.acceptSample (s : State) (i : Nat) (idx : BitVec 7) (o : BitVec 2) : Except Fault State := do
  let rec ← s.sampleAt (i + 4 + 4 * o.toNat)
  s.slotWrite (Operands.angle idx o).toNat rec

/-- The four sample numbers, ascending (R156). -/
def sampleNumbers : List (BitVec 2) := [0, 1, 2, 3]

/-- `WACCEPT` of packet `idx` at the cursor (R156). -/
def State.acceptPacket (s : State) (idx : BitVec 7) : Except Fault State := do
  let i := s.locals.cursor
  let speed ← s.rawRead2 (i + 2)
  let t ← sampleNumbers.foldlM (fun t o => t.acceptSample i idx o) (s.countPacket speed)
  let t := if idx.toNat = Config.idxMax then t.setStop else t
  return t.advance Config.pktLen

/-- One iteration of the walk: candidate test, premature-header scan, and the selected operation (R152). -/
def State.walkIter (s : State) : Except Fault State := do
  let i := s.locals.cursor
  let h ← s.rawRead i
  let x ← s.rawRead (i + 1)
  match Operands.idxdec h x with
  | none => return (s.setCandidate none).advance 1
  | some idx =>
    match ← s.firstHeader i scanOffsets with
    | some k => return ((s.setCandidate (some idx)).setPremature (some k)).advance k
    | none => ((s.setCandidate (some idx)).setPremature none).acceptPacket idx

/-- Whether the walk goes on: a whole packet fits at the cursor, and angle 359 was not written (R152, R157). -/
def State.walkGoes (s : State) : Bool :=
  decide (s.locals.cursor + Config.pktLen ≤ Config.pblockLen) && !s.locals.stop

/-- The loop of the walk; the fuel bounds its iterations (R158: at most 1959). -/
def State.walkLoop : Nat → State → Except Fault State
  | 0, s => .ok s
  | n + 1, s => if s.walkGoes then s.walkIter >>= State.walkLoop n else .ok s

/-- The walk: the cursor is created at 0, the loop runs to its end, the locals are discarded (R152, R24). -/
def State.walkBlock (s : State) : Except Fault State := do
  let t ← State.walkLoop Config.pblockLen { s with locals := Locals.init }
  return { t with locals := Locals.init }

/-! ### Legacy body decode (R133) -/

/-- Sample `a` of the body, into slot `a` (R59, R133). -/
def State.decodeSlot (s : State) (a : Nat) : Except Fault State := do
  let rec ← s.sampleAt (4 * a)
  s.slotWrite a rec

/-- All 360 samples, ascending (R133). -/
def State.decodeBody (s : State) : Except Fault State :=
  (List.range Config.nslot).foldlM State.decodeSlot s

/-! ### Answers of operations -/

/-- An operation's answer from its computation. -/
def answer : Except Fault State → Answer
  | .ok s => .next s
  | .error f => .fault f

/-! ### Environment: offers, held events, and the key of the next operation (R38, R80, R194) -/

/-- The byte source keeps an event that the unit does not take (R38, R90). -/
def State.hold (s : State) (e : SourceEvent) : State := { s with held := s.held ++ [e] }

/-- The sub-state `cc` of a BYTE key: `start_count` in SEARCH (its low bit in the Packetized variant), the low bit of
`fill_count` in SPEED, ignored (zero) elsewhere (R80, R81, R83). -/
def State.subState (s : State) : BitVec 2 :=
  match s.phase, s.variant with
  | .search, .legacy => s.startCount
  | .search, .packetized => 0#1 ++ s.startCount.extractLsb' 0 1
  | .speed, _ => 0#1 ++ s.fillCount.extractLsb' 0 1
  | .fill, _ => 0
  | .idle, _ => 0

/-- The key of an event of the byte source (R80). -/
def State.sourceKey (s : State) : SourceEvent → Key
  | .byte b => .byteKey (byteKeyWord s.variant s.phase s.subState b)
  | .fail => .event (eventWord 1 s.variant s.phase)

/-- What the environment brings about next. -/
inductive Fetched where
  /-- Nothing is offered. -/
  | nothing
  /-- An event of the byte source was offered and held; the state is the one after it. -/
  | kept (s : State)
  /-- An operation is selected; the state is the one it runs in. -/
  | key (k : Key) (s : State)
deriving DecidableEq, Repr

/-- Take the next offer (R38): a byte-source event is held while IDLE. -/
def State.takeOffer (s : State) : Fetched :=
  match s.offers with
  | [] => .nothing
  | .poll :: rest => .key (.event (eventWord 2 s.variant s.phase)) { s with offers := rest }
  | .reset :: rest => .key (.event (eventWord 3 s.variant s.phase)) { s with offers := rest }
  | .source e :: rest =>
    if s.busy then .key (s.sourceKey e) { s with offers := rest }
    else .kept (({ s with offers := rest } : State).hold e)
  | .direct k :: rest => .key k { s with offers := rest }

/-- Form the key of the next operation. While busy, a held event goes first (R90). -/
def State.fetch (s : State) : Fetched :=
  match s.busy, s.held with
  | true, e :: rest => .key (s.sourceKey e) { s with held := rest }
  | _, _ => s.takeOffer

/-- The state in which the very next fetch forms the given key: the variant, phase and sub-state its bits name, and the
event or the direct invocation offered. A key that no event forms is offered directly; log 18. -/
def State.offerKey (s : State) (k : Key) : State :=
  match decode k, k with
  | .ok _, .event w =>
    let kk := w.extractLsb' 3 2
    { s with
      variant := Variant.ofCode (w.extractLsb' 2 1)
      phase := Phase.ofCode (w.extractLsb' 0 2)
      held := []
      offers := (if kk = 2 then .poll else if kk = 3 then .reset else .source .fail) :: s.offers }
  | .ok _, .byteKey w =>
    let cc := w.extractLsb' 8 2
    let phase := Phase.ofCode (w.extractLsb' 10 2)
    { s with
      variant := Variant.ofCode (w.extractLsb' 12 1)
      phase := phase
      startCount := if phase = .search then cc else s.startCount
      fillCount := if phase = .speed then cc.zeroExtend 11 else s.fillCount
      held := []
      offers := .source (.byte (w.extractLsb' 0 8)) :: s.offers }
  | _, _ => { s with held := [], offers := .direct k :: s.offers }

end Sys2Proof.Machine
end

