-- ==== Sys2Proof/Machine/Accumulator.lean ====
section
/-! DEFINITION. The scan accumulator's operations: REINIT, SLOTWR, COMPLETE (`45_scan_accumulator.md`). -/

namespace Sys2Proof.Machine

/-- `REINIT` (R170). -/
def execReinit (s : State) : Answer := .next s.clearSlots

/-- `SLOTWR` (R171): unconditional overwrite of the slot of angle `a`. -/
def execSlotwr (a : BitVec 9) (rec : Slot) (s : State) : Answer := answer (s.slotWrite a.toNat rec)

/-- `COMPLETE` (R181). -/
def execComplete (s : State) : Answer := .next s.finish

end Sys2Proof.Machine
end

