-- ==== Sys2Proof/Machine/HostOps.lean ====
section
/-! DEFINITION. The host's and the byte source's events: POLL, FAIL, RESET (`46_host_ops.md`). -/

namespace Sys2Proof.Machine

/-- `POLL` (R190): taken only in IDLE; while a `poll()` is outstanding it is refused (R38, U1). Both variants do the
same. -/
def execPoll (s : State) : Answer := if s.busy then .refused .pollWhileBusy else .next s.startPoll

/-- `FAIL` (R191): raises TransportFailure, in every phase but IDLE alike; in IDLE the event is held (R38). -/
def execFail (s : State) : Answer := if s.busy then .next s.raiseTransportFailure else .next (s.hold .fail)

/-- `RESET` (R192): taken in every phase. -/
def execReset (s : State) : Answer := .next s.resetUnit

end Sys2Proof.Machine
end

