-- ==== Sys2Proof/Machine/LegacyFrame.lean ====
section
/-! DEFINITION. The legacy frame reader: LSPD0, LSPD1, LBODY, LDECODE (`42_legacy_frame.md`). -/

namespace Sys2Proof.Machine

/-- `LSPD0` (R130): the low half of `speed_raw`; the high half keeps its value. -/
def execLspd0 (b : Byte) (s : State) : Answer :=
  .next { s with speedRaw := s.speedRaw.extractLsb' 8 8 ++ b, fillCount := 1 }

/-- `LSPD1` (R131): the high half of `speed_raw`; the body comes next. -/
def execLspd1 (b : Byte) (s : State) : Answer :=
  .next { s with speedRaw := b ++ s.speedRaw.extractLsb' 0 8, fillCount := 0, phase := .fill }

/-- `LBODY` (R132): store the byte; the one at offset 1439 also decodes the body and completes the `poll()`. -/
def execLbody (b : Byte) (s : State) : Answer :=
  answer do
    let t ← s.rawWrite s.fillCount.toNat b
    if s.fillCount = 1439 then
      let u ← t.decodeBody
      return u.finish
    else return { t with fillCount := s.fillCount + 1 }

/-- `LDECODE` (R133): the 360 samples of the body, by position. -/
def execLdecode (s : State) : Answer := answer s.decodeBody

end Sys2Proof.Machine
end

