-- ==== Sys2Proof/Machine/LegacySync.lean ====
section
/-! DEFINITION. The legacy start-sequence matcher: LS0, LS1, LS2, LS3, LMISS (`41_legacy_sync.md`). -/

namespace Sys2Proof.Machine

/-- `LS0` (R121). -/
def execLs0 (s : State) : Answer := .next { s with startCount := 1 }

/-- `LS1` (R122). -/
def execLs1 (s : State) : Answer := .next { s with startCount := 2 }

/-- `LS2` (R123). -/
def execLs2 (s : State) : Answer := .next { s with startCount := 3 }

/-- `LS3` (R124): full match; the speed bytes come next. -/
def execLs3 (s : State) : Answer := .next { s with startCount := 0, fillCount := 0, phase := .speed }

/-- `LMISS` (R125): the byte is discarded and not examined again. -/
def execLmiss (s : State) : Answer := .next { s with startCount := 0 }

end Sys2Proof.Machine
end

