-- ==== Sys2Proof/Machine/PacketSync.lean ====
section
/-! DEFINITION. The packetized first-sync matcher and block fill: PS0, PS1, PMISS, PFILL (`43_packet_sync.md`). -/

namespace Sys2Proof.Machine

/-- `PS0` (R140): the header byte, kept at offset 0. -/
def execPs0 (s : State) : Answer :=
  answer do
    let t ← s.rawWrite 0 0xFA
    return { t with startCount := 1 }

/-- `PS1` (R141): the index byte, kept at offset 1; full match, the block's other bytes come next. -/
def execPs1 (s : State) : Answer :=
  answer do
    let t ← s.rawWrite 1 0xA0
    return { t with startCount := 0, fillCount := 2, phase := .fill }

/-- `PMISS` (R142, the spec's decision D15): the byte is discarded and not examined again, `FA` too. -/
def execPmiss (s : State) : Answer := .next { s with startCount := 0 }

/-- `PFILL` (R143): store the byte; the one at offset 1979 also walks the block and completes the `poll()`. -/
def execPfill (b : Byte) (s : State) : Answer :=
  answer do
    let t ← s.rawWrite s.fillCount.toNat b
    if s.fillCount = 1979 then
      let u ← t.walkBlock
      return u.finish
    else return { t with fillCount := s.fillCount + 1 }

end Sys2Proof.Machine
end

