-- ==== Sys2Proof/Machine/PacketWalk.lean ====
section
/-! DEFINITION. The packet reassembler: WALK, WSKIP, WCORRUPT, WACCEPT (`44_packet_walk.md`). The last three take
their operands from the locals: the cursor, `k_min` and the packet index. -/

namespace Sys2Proof.Machine

/-- `WALK` (R152): the whole loop. -/
def execWalk (s : State) : Answer := answer s.walkBlock

/-- `WSKIP` (R154): one byte on. -/
def execWskip (s : State) : Answer := .next (s.advance 1)

/-- `WCORRUPT` (R155): on to the premature header; nothing of the packet is used. -/
def execWcorrupt (s : State) : Answer := .next (s.advance s.locals.kMin)

/-- `WACCEPT` (R156): count the packet, write its four samples, stop after index 89, 22 bytes on. -/
def execWaccept (s : State) : Answer := answer (s.acceptPacket s.locals.idx)

end Sys2Proof.Machine
end

