-- ==== Sys2Proof/Machine/SampleDecode.lean ====
section
/-! DEFINITION. The candidate test and the pure field decoders as operations of their own (`40_sample_decode.md`):
each leaves its answer in the locals and changes no element of R21 (log 6). -/

namespace Sys2Proof.Machine

/-- `IDXDEC.A0_BF` (R85, R108): `CANDIDATE(p)`. -/
def execIdxdecA0Bf (p : BitVec 5) (s : State) : Answer := .next (s.setCandidate (some (p.zeroExtend 7)))

/-- `IDXDEC.C0_DF` (R85, R108): `CANDIDATE(32 + p)`. -/
def execIdxdecC0Df (p : BitVec 5) (s : State) : Answer := .next (s.setCandidate (some (32 + p.zeroExtend 7)))

/-- `IDXDEC.E0_EF` (R85, R108): `CANDIDATE(64 + p)`. -/
def execIdxdecE0Ef (p : BitVec 4) (s : State) : Answer := .next (s.setCandidate (some (64 + p.zeroExtend 7)))

/-- `IDXDEC.F0_F7` (R85, R108): `CANDIDATE(80 + p)`. -/
def execIdxdecF0F7 (p : BitVec 3) (s : State) : Answer := .next (s.setCandidate (some (80 + p.zeroExtend 7)))

/-- `IDXDEC.F8_F9` (R85, R108): `CANDIDATE(88 + p)`. -/
def execIdxdecF8F9 (p : BitVec 1) (s : State) : Answer := .next (s.setCandidate (some (88 + p.zeroExtend 7)))

/-- `IDXDEC.NONE` (R85, R108): `NOT_CANDIDATE`. -/
def execIdxdecNone (s : State) : Answer := .next (s.setCandidate none)

/-- `SAMPLE` (R106). -/
def execSample (b0 b1 b2 b3 : Byte) (s : State) : Answer :=
  .next { s with locals := { s.locals with sample := Operands.sample b0 b1 b2 b3 } }

/-- `RANGE` (R101). -/
def execRange (b0 b1 : Byte) (s : State) : Answer :=
  .next { s with locals := { s.locals with range := Operands.range b0 b1 } }

/-- `TOOCLOSE` (R103). -/
def execTooclose (b1 : Byte) (s : State) : Answer :=
  .next { s with locals := { s.locals with tooClose := Flags.tooClose b1 } }

/-- `NORETURN` (R104). -/
def execNoreturn (b1 : Byte) (s : State) : Answer :=
  .next { s with locals := { s.locals with noReturn := Flags.noReturn b1 } }

/-- `INTENS` (R105). -/
def execIntens (b2 b3 : Byte) (s : State) : Answer :=
  .next { s with locals := { s.locals with intens := Operands.intens b2 b3 } }

/-- `LE16` (R100). -/
def execLe16 (lo hi : Byte) (s : State) : Answer :=
  .next { s with locals := { s.locals with le16 := Operands.le16 lo hi } }

/-- `SPEED16` (R107). -/
def execSpeed16 (s0 s1 : Byte) (s : State) : Answer :=
  .next { s with locals := { s.locals with speed := Operands.speed16 s0 s1 } }

/-- `ANGLE` (R109). -/
def execAngle (idx : BitVec 7) (o : BitVec 2) (s : State) : Answer :=
  .next { s with locals := { s.locals with angle := Operands.angle idx o } }

end Sys2Proof.Machine
end

