-- ==== Sys2Proof/Machine/Views.lean ====
section
/-! DEFINITION. The real-valued fields of a slot and of a Scan record: exact rational functions of the integers it holds
(R12, R174 to R180), evaluated on demand as R174 allows; log 14. -/

namespace Sys2Proof.Machine

/-- `range_m`: metres (R175). -/
def Views.rangeM (x : Slot) : ℚ := (x.rangeMm.toNat : ℚ) / Config.mmPerM

/-- `intensity`, stored verbatim (R175). -/
def Views.intensity (x : Slot) : Nat := x.intensity.toNat

/-- `rpm` of a packetized scan: the exact average of `raw/64`, 0 without a packet (R176). -/
def Views.rpmOf (speedSum : BitVec 23) (goodPackets : BitVec 7) : ℚ :=
  if goodPackets = 0 then 0 else ((speedSum.toNat : ℚ) / Config.rpmDiv) / (goodPackets.toNat : ℚ)

/-- `scan_time` of a packetized scan: `60 / rpm`, 0 when `rpm` is 0 (R177). -/
def Views.scanTimeOf (speedSum : BitVec 23) (goodPackets : BitVec 7) : ℚ :=
  let rpm := Views.rpmOf speedSum goodPackets
  if 0 < rpm then 60 / rpm else 0

/-- The field `rpm`: present in the Packetized record only (R176, R179). -/
def Scan.rpm? (c : Scan) : Option ℚ :=
  match c.telemetry with
  | .legacy _ => none
  | .packetized sum n => some (Views.rpmOf sum n)

/-- The field `scan_time`: present in the Packetized record only (R177, R179). -/
def Scan.scanTime? (c : Scan) : Option ℚ :=
  match c.telemetry with
  | .legacy _ => none
  | .packetized sum n => some (Views.scanTimeOf sum n)

/-- The field `time_increment`: `speed_raw / 1e8` in the Legacy record, `scan_time / 360` in the Packetized (R178). -/
def Scan.timeIncrement (c : Scan) : ℚ :=
  match c.telemetry with
  | .legacy raw => (raw.toNat : ℚ) / Config.lTiDiv
  | .packetized sum n => Views.scanTimeOf sum n / 360

/-- The field `range_m[a]` (R175, R180). -/
def Scan.rangeM (c : Scan) (a : Fin 360) : ℚ := Views.rangeM c.samples[a]

/-- The field `intensity[a]` (R175, R180). -/
def Scan.intensity (c : Scan) (a : Fin 360) : Nat := Views.intensity c.samples[a]

end Sys2Proof.Machine
end

