-- ==== Sys2Proof/Machine/Dispatch.lean ====
section
/-! DEFINITION. One arm per operation, each one direct call of its meaning. -/

namespace Sys2Proof.Machine

def exec (i : Instr) (s : State) : Host.Outcome State Fault Refusal :=
  match i with
  | .poll _ => Sys2Proof.Machine.execPoll s
  | .fail _ _ => Sys2Proof.Machine.execFail s
  | .reset _ _ => Sys2Proof.Machine.execReset s
  | .ls0 => Sys2Proof.Machine.execLs0 s
  | .ls1 => Sys2Proof.Machine.execLs1 s
  | .ls2 => Sys2Proof.Machine.execLs2 s
  | .ls3 => Sys2Proof.Machine.execLs3 s
  | .lmiss _ _ => Sys2Proof.Machine.execLmiss s
  | .lspd0 b => Sys2Proof.Machine.execLspd0 b s
  | .lspd1 b => Sys2Proof.Machine.execLspd1 b s
  | .lbody b => Sys2Proof.Machine.execLbody b s
  | .ps0 => Sys2Proof.Machine.execPs0 s
  | .ps1 => Sys2Proof.Machine.execPs1 s
  | .pmiss _ _ => Sys2Proof.Machine.execPmiss s
  | .pfill b => Sys2Proof.Machine.execPfill b s
  | .idxdecA0Bf p => Sys2Proof.Machine.execIdxdecA0Bf p s
  | .idxdecC0Df p => Sys2Proof.Machine.execIdxdecC0Df p s
  | .idxdecE0Ef p => Sys2Proof.Machine.execIdxdecE0Ef p s
  | .idxdecF0F7 p => Sys2Proof.Machine.execIdxdecF0F7 p s
  | .idxdecF8F9 p => Sys2Proof.Machine.execIdxdecF8F9 p s
  | .idxdecNone _ _ => Sys2Proof.Machine.execIdxdecNone s
  | .wskip => Sys2Proof.Machine.execWskip s
  | .wcorrupt => Sys2Proof.Machine.execWcorrupt s
  | .waccept => Sys2Proof.Machine.execWaccept s
  | .sample b0 b1 b2 b3 => Sys2Proof.Machine.execSample b0 b1 b2 b3 s
  | .range b0 b1 => Sys2Proof.Machine.execRange b0 b1 s
  | .tooclose b1 => Sys2Proof.Machine.execTooclose b1 s
  | .noreturn b1 => Sys2Proof.Machine.execNoreturn b1 s
  | .intens b2 b3 => Sys2Proof.Machine.execIntens b2 b3 s
  | .le16 lo hi => Sys2Proof.Machine.execLe16 lo hi s
  | .speed16 s0 s1 => Sys2Proof.Machine.execSpeed16 s0 s1 s
  | .angle idx o => Sys2Proof.Machine.execAngle idx o s
  | .ldecode => Sys2Proof.Machine.execLdecode s
  | .walk => Sys2Proof.Machine.execWalk s
  | .reinit => Sys2Proof.Machine.execReinit s
  | .slotwr a rec => Sys2Proof.Machine.execSlotwr a rec s
  | .complete => Sys2Proof.Machine.execComplete s

end Sys2Proof.Machine
end

