-- ==== Sys2Proof/Machine/Step.lean ====
section
/-! DEFINITION. One step: form the key of the next operation, decode it, run it (R14, R194). -/

namespace Sys2Proof.Machine

/-- How a step refuses a key: `POLL` while busy under its own name (R38), any other key by the decoder's reason. -/
def Refusal.ofDecode : DecodeError → Refusal
  | .pollWhileBusy => .pollWhileBusy
  | e => .undecodable e

/-- The step (R194). With nothing offered the unit stays as it is (R40; log 9). -/
def step (s : State) : Host.Outcome State Fault Refusal :=
  match s.fetch with
  | .nothing => .next s
  | .kept t => .next t
  | .key k t =>
    match decode k with
    | .ok i => exec i t
    | .error e => .refused (Refusal.ofDecode e)

/-- The state in which the very next step runs the operation of a bare word of the opcode table; log 18. -/
def State.withFetchWord (s : State) (nbits w : Nat) : State := s.offerKey (tableKey nbits w)

end Sys2Proof.Machine
end

