-- ==== Sys2Proof/Safety.lean ====
section
/-! DEFINITION. What a state that events have brought about satisfies (R43, R65, R151), in the terms the statements use. -/

namespace Sys2Proof.Machine

/-- Every offset below `n` of the raw buffer holds a byte. -/
def State.writtenBelow (s : State) (n : Nat) : Prop := ∀ j < n, ∃ b, Memory.read s.raw j = some b

/-- The environment offers events only: no operation is invoked directly (log 6). -/
def State.eventsOnly (s : State) : Prop := ∀ k, Offer.direct k ∉ s.offers

/-- The invariant of the reachable states (R43, with what R65 and R151 add to it). -/
structure Inv (s : State) : Prop where
  /-- The raw buffer keeps its canonical form. -/
  rawWf : Memory.wf s.raw = true
  /-- R43 (a). -/
  speedLegacy : s.phase = .speed → s.variant = .legacy
  /-- R43 (b). -/
  countOutsideSearch : s.phase ≠ .search → s.startCount = 0
  /-- `start_count` is 0 or 1 in the Packetized variant (R21, R23). -/
  countPacketized : s.variant = .packetized → s.startCount.toNat ≤ 1
  /-- R43 (c), SPEED. -/
  fillSpeed : s.phase = .speed → s.fillCount.toNat ≤ 1
  /-- R43 (c), FILL, Legacy. -/
  fillLegacy : s.phase = .fill → s.variant = .legacy → s.fillCount.toNat ≤ 1439
  /-- R43 (c), FILL, Packetized. -/
  fillPacketized : s.phase = .fill → s.variant = .packetized → 2 ≤ s.fillCount.toNat ∧ s.fillCount.toNat ≤ 1979
  /-- Bytes are stored in rising order: all below `fill_count` are there (R65). -/
  filled : s.phase = .fill → s.writtenBelow s.fillCount.toNat
  /-- The header byte is there once it has matched (R140). -/
  headerKept : s.phase = .search → s.variant = .packetized → s.startCount = 1 → Memory.read s.raw 0 = some 0xFA
  /-- R43 (e). -/
  syncKept : s.variant = .packetized → s.phase = .fill →
    Memory.read s.raw 0 = some 0xFA ∧ Memory.read s.raw 1 = some 0xA0
  /-- R43 (f). -/
  busyNoResult : s.busy = true → s.result = .none
  /-- R151: while a `poll()` is outstanding nothing has been accumulated. -/
  busyFresh : s.busy = true → s.acc = clearedSlots ∧ s.speedSum = 0 ∧ s.goodPackets = 0
  /-- R43 (d), from the first `POLL` on: a `poll()` is outstanding or has returned. -/
  sumBounded : s.busy = true ∨ s.result ≠ .none →
    s.goodPackets.toNat ≤ 90 ∧ s.speedSum.toNat ≤ 65535 * s.goodPackets.toNat
  /-- R43 (g), from the first `POLL` on. -/
  legacyNoSum : s.variant = .legacy → s.busy = true ∨ s.result ≠ .none → s.speedSum = 0 ∧ s.goodPackets = 0
  /-- Between steps no local persists (R21, R24). -/
  noLocals : s.locals = Locals.init
  /-- The environment offers events only. -/
  events : s.eventsOnly

/-- The state in which the byte source will deliver exactly these events, in order, and nothing else is pending. -/
def State.feed (s : State) (es : List SourceEvent) : State := { s with held := [], offers := es.map Offer.source }

/-- The state in which the byte source will deliver exactly these bytes, in order. -/
def State.feedBytes (s : State) (bs : List Byte) : State := s.feed (bs.map SourceEvent.byte)

/-- Every byte of the raw buffer below `n` is the given one. -/
def State.holdsBytes (s : State) (n : Nat) (f : Nat → Byte) : Prop := ∀ j < n, Memory.read s.raw j = some (f j)

/-- Two units that have come through one `poll()` alike: all that a later step of this `poll()` reads agrees. Outside it,
`raw`, `speed_raw`, `fill_count`, the slots and the sums may differ, as two earlier histories leave them (R173). -/
structure SamePoll (s s' : State) : Prop where
  variant : s.variant = s'.variant
  phase : s.phase = s'.phase
  startCount : s.startCount = s'.startCount
  result : s.result = s'.result
  offers : s.offers = s'.offers
  held : s.held = s'.held
  /-- R25: the counter is read in SPEED and FILL only. -/
  fillCount : s.phase = .speed ∨ s.phase = .fill → s.fillCount = s'.fillCount
  /-- The low half of `speed_raw` agrees once LSPD0 has written it (R130). -/
  speedLow : s.phase = .speed → s.fillCount ≠ 0 → s.speedRaw.extractLsb' 0 8 = s'.speedRaw.extractLsb' 0 8
  /-- The whole of it once LSPD1 has (R131). -/
  speedRaw : s.phase = .fill → s.variant = .legacy → s.speedRaw = s'.speedRaw
  /-- POLL has set the slots and the sums (R190). -/
  accumulated : s.busy = true → s.acc = s'.acc ∧ s.speedSum = s'.speedSum ∧ s.goodPackets = s'.goodPackets
  /-- The header byte agrees once PS0 has stored it (R140). -/
  header : s.phase = .search → s.variant = .packetized → s.startCount ≠ 0 → Memory.read s.raw 0 = Memory.read s'.raw 0
  /-- The bytes stored so far agree (R65). -/
  filled : s.phase = .fill → ∀ j < s.fillCount.toNat, Memory.read s.raw j = Memory.read s'.raw j
  /-- The environment offers events only. -/
  events : s.eventsOnly

/-- The slot writes of one pass over all angles, ascending, as the event log (newest first) shows them. -/
def passLog (acc : Vector Slot 360) : List LogEntry :=
  (List.finRange 360).reverse.map (fun a => LogEntry.slot a.val acc[a])

end Sys2Proof.Machine

namespace Sys2Proof

/-- The slot is the RawSample of these four bytes, in the arithmetic of R79. -/
def Slot.decodesFrom (x : Slot) (b0 b1 b2 b3 : Byte) : Prop :=
  x.rangeMm.toNat = b0.toNat + 256 * (b1.toNat % 64) ∧
  (x.tooClose = true ↔ b1.toNat / 64 % 2 = 1) ∧
  (x.noReturn = true ↔ b1.toNat / 128 % 2 = 1) ∧
  x.intensity.toNat = b2.toNat + 256 * b3.toNat

end Sys2Proof
end

