-- ==== Sys2Proof/Certificates/Slice0/Obligations.lean ====
section
/-! DEFINITION. The statements for the provers. -/

open Sys2Proof Sys2Proof.Machine

/-! ### Keys and decoding (`30_encoding.md`) -/

/-- Decoding the encoder's key of a well-formed operation gives the operation back (R80 to R87). -/
def Obligations.DecodeOfEncodeIsIdentity : Prop :=
  ∀ i : Instr, i.wellFormed = true → decode (encode i) = .ok i

/-- Whatever the decoder answers is well-formed and belongs to a row of the key's own format (R80). -/
def Obligations.DecodedOperationsAreWellFormed : Prop :=
  ∀ (k : Key) (i : Instr), decode k = .ok i → i.wellFormed = true ∧ k.format? = some i.op.format

/-- On every BYTEKEY word the decoder answers an operation of the row the opcode table's patterns give the word, and
answers none exactly where no row applies (R80 to R84, R87). -/
def Obligations.ByteKeysFollowTheTable : Prop :=
  ∀ w : BitVec 15, (decode (.byteKey w)).toOption.map Instr.op = rowFor byteKeyRows w.toNat

/-- On every EVENT, WALK1 and WALK2 word the decoder answers an operation of the row the opcode table gives the word;
the FAIL row carries the table's constraint that `pp` is not IDLE (R80, R85, R86, R87). -/
def Obligations.EventAndWalkKeysFollowTheTable : Prop :=
  (∀ w : BitVec 5, (decode (.event w)).toOption.map Instr.op =
    if w.extractLsb' 3 2 = 1 ∧ w.extractLsb' 0 2 = 0 then none else rowFor eventRows w.toNat) ∧
  (∀ w : BitVec 16, (decode (.walk1 w)).toOption.map Instr.op = rowFor walk1Rows w.toNat) ∧
  (∀ w : BitVec 2, (decode (.walk2 w)).toOption.map Instr.op = rowFor walk2Rows w.toNat)

/-- No word matches two rows of one map that are not default rows (R87). -/
def Obligations.NoTwoFixedRowsOverlap : Prop :=
  ∀ rows ∈ [eventRows, byteKeyRows, walk1Rows, walk2Rows],
    (rows.filter (fun r => !r.isDefault)).Pairwise (fun r q => r.disjoint q = true)

/-- Words written out bit by bit from the spec's patterns decode to the operations they stand for (R80 to R86). The
fourth word, a SPEED key with the sub-state `10` that no row has, is the model's choice, log 12: it is refused. -/
def Obligations.SpecWordsDecode : Prop :=
  decode (.event 0b10100) = .ok (.poll .packetized) ∧
  decode (.event 0b01011) = .ok (.fail .legacy .fill) ∧
  decode (.byteKey 0b000011000000000) = .ok .ls2 ∧
  decode (.byteKey 0b000101010100101) = .error .badSubState ∧
  decode (.byteKey 0b000100110100101) = .ok (.lspd1 0xA5) ∧
  decode (.byteKey 0b001010111111010) = .ok (.pmiss 1 0xFA) ∧
  decode (.walk1 0b1111101010110011) = .ok (.idxdecA0Bf 19) ∧
  decode (.walk2 0b11) = .ok .wcorrupt ∧
  decode (.sample32 .sample 0b00010010001101000100001111101000) = .ok (.sample 0xE8 0x43 0x34 0x12) ∧
  decode (.angle9 0b001001110) = .ok (.angle 19 2)

/-- The candidate test is R108's for every pair of bytes: after `FA`, an index byte from `A0` to `F9` is a candidate
with index `x - A0`; every other pair is none. Nothing but the answer changes (R85, R108). -/
def Obligations.CandidateTestOnEveryPair : Prop :=
  ∀ (h x : Byte) (s : State), ∃ i, decode (.walk1 (h ++ x)) = .ok i ∧
    exec i s = .next { s with locals :=
      if h = 0xFA ∧ 160 ≤ x.toNat ∧ x.toNat - 160 ≤ 89 then
        { s.locals with candidate := true, idx := BitVec.ofNat 7 (x.toNat - 160) }
      else { s.locals with candidate := false } }

/-- The six rows of the candidate test complete in every state with the packet index of their pattern (R85, R108). -/
def Obligations.CandidateRowsComplete : Prop :=
  ∀ s : State,
    (∀ p, exec (.idxdecA0Bf p) s =
      .next { s with locals := { s.locals with candidate := true, idx := BitVec.ofNat 7 p.toNat } }) ∧
    (∀ p, exec (.idxdecC0Df p) s =
      .next { s with locals := { s.locals with candidate := true, idx := BitVec.ofNat 7 (32 + p.toNat) } }) ∧
    (∀ p, exec (.idxdecE0Ef p) s =
      .next { s with locals := { s.locals with candidate := true, idx := BitVec.ofNat 7 (64 + p.toNat) } }) ∧
    (∀ p, exec (.idxdecF0F7 p) s =
      .next { s with locals := { s.locals with candidate := true, idx := BitVec.ofNat 7 (80 + p.toNat) } }) ∧
    (∀ p, exec (.idxdecF8F9 p) s =
      .next { s with locals := { s.locals with candidate := true, idx := BitVec.ofNat 7 (88 + p.toNat) } }) ∧
    (∀ h x, exec (.idxdecNone h x) s = .next { s with locals := { s.locals with candidate := false } })

/-! ### The step and the events (R38, R194) -/

/-- When the fetched key decodes, the step is the decoded operation, run in the state the fetch leaves; and that state
differs from the fetching one in the two queues of the environment only. -/
def Obligations.StepRunsTheSelectedOperation : Prop :=
  ∀ (s t : State) (k : Key) (i : Instr), s.fetch = .key k t → decode k = .ok i →
    step s = exec i t ∧ ∃ offers held, t = { s with offers := offers, held := held }

/-- R38's table, one clause per cell: what is offered next is taken, held or refused by phase. In a cell where the unit
is busy nothing is held by the byte source: a held event would come first, the model's choice, log 5. The one BYTE cell without an operation is
PACKETIZED with SPEED, which R193 calls unreachable. -/
def Obligations.OffersAreTakenHeldOrRefused : Prop :=
  ∀ (s : State) (rest : List Offer),
    (s.offers = .poll :: rest → s.phase = .idle → step s = exec (.poll s.variant) { s with offers := rest }) ∧
    (s.offers = .poll :: rest → s.phase ≠ .idle → s.held = [] → step s = .refused .pollWhileBusy) ∧
    (s.offers = .reset :: rest → s.phase = .idle ∨ s.held = [] →
      step s = exec (.reset s.variant s.phase) { s with offers := rest }) ∧
    (∀ e, s.offers = .source e :: rest → s.phase = .idle →
      step s = .next { s with offers := rest, held := s.held ++ [e] }) ∧
    (s.offers = .source .fail :: rest → s.phase ≠ .idle → s.held = [] →
      step s = exec (.fail s.variant s.phase) { s with offers := rest }) ∧
    (∀ b, s.offers = .source (.byte b) :: rest → s.phase ≠ .idle → s.held = [] →
      ¬(s.variant = .packetized ∧ s.phase = .speed) →
      ∃ i, decode (s.sourceKey (.byte b)) = .ok i ∧ step s = exec i { s with offers := rest })

/-- Model's choice, log 5, from R90: while a `poll()` is outstanding, an event held by the byte source is taken before
any further offer. -/
def Obligations.HeldEventsComeFirst : Prop :=
  ∀ (s : State) (e : SourceEvent) (rest : List SourceEvent) (i : Instr),
    s.phase ≠ .idle → s.held = e :: rest → decode (s.sourceKey e) = .ok i → step s = exec i { s with held := rest }

/-- Model's choice, log 9, from R40: when nothing is offered the step leaves the machine as it is. -/
def Obligations.UnitWaitsWhenNothingIsOffered : Prop :=
  ∀ s : State, s.offers = [] → s.phase = .idle ∨ s.held = [] → step s = .next s

/-! ### Host events (`46_host_ops.md`) -/

/-- POLL: taken in IDLE, where it re-initialises the accumulator, the sum, the counter, the sync state and the result and
goes to SEARCH, and changes nothing else; refused in every other phase (R190). -/
def Obligations.PollStartsAPollOrIsRefused : Prop :=
  ∀ (s : State) (v : Variant),
    (s.phase = .idle → ∃ acc, exec (.poll v) s =
      .next { s with acc := acc, speedSum := 0, goodPackets := 0, startCount := 0, result := .none, phase := .search } ∧
      ∀ a : Fin 360, acc[a] = ⟨0, false, false, 0⟩) ∧
    (s.phase ≠ .idle → exec (.poll v) s = .refused .pollWhileBusy)

/-- FAIL: in every phase but IDLE exactly `result`, `start_count` and `phase` change; in IDLE the event is held and the
unit does not change (R191, R204, R208). -/
def Obligations.FailRaisesTransportFailure : Prop :=
  ∀ (s : State) (v : Variant) (pp : Phase),
    (s.phase ≠ .idle → exec (.fail v pp) s =
      .next { s with result := .failure .transportFailure, startCount := 0, phase := .idle }) ∧
    (s.phase = .idle → exec (.fail v pp) s = .next { s with held := s.held ++ [.fail] })

/-- RESET: taken in every state; IDLE, count 0, no result, the status predicates down, the variant as before (R192). -/
def Obligations.ResetReturnsToConstruction : Prop :=
  ∀ (s : State) (v : Variant) (pp : Phase), ∃ t, exec (.reset v pp) s = .next t ∧
    t.phase = .idle ∧ t.startCount = 0 ∧ t.result = .none ∧
    t.busy = false ∧ t.isDone = false ∧ t.isFailed = false ∧
    t.variant = s.variant ∧ t.offers = s.offers ∧ t.held = s.held

/-- The reset state has the three values R42 gives, and nothing written in the raw buffer. -/
def Obligations.ResetStateValues : Prop :=
  State.reset.phase = .idle ∧ State.reset.startCount = 0 ∧ State.reset.result = .none ∧
  ∀ j, Memory.read State.reset.raw j = none

/-- No operation but FAIL, taken while a `poll()` is outstanding, brings a failure about (R204). -/
def Obligations.OnlyFailBringsAFailure : Prop :=
  ∀ (i : Instr) (s t : State) (f : Failure), exec i s = .next t → t.result = .failure f →
    s.result = .failure f ∨ (i.op = .fail ∧ s.phase ≠ .idle)

/-- A step of events after which an outstanding `poll()` is no longer outstanding has completed it with a scan, failed
it, or was the host's RESET (R41, R181, R191, R192). That the byte source holds nothing when a RESET ends it is the
model's choice, log 5: a held event is taken before the host's RESET. -/
def Obligations.PollEndsInOneOfThreeWays : Prop :=
  ∀ s t : State, s.eventsOnly → s.busy = true → step s = .next t → t.busy = false →
    (∃ c, t.result = .scan c) ∨ t.result = .failure .transportFailure ∨
    (t.result = .none ∧ s.held = [] ∧ ∃ rest, s.offers = .reset :: rest)

/-! ### Legacy matcher (`41_legacy_sync.md`) -/

/-- The transition function of R120: the byte that LSYNC has at the count moves the match on, the fourth one starts the
speed bytes, any other byte sets the count to 0; nothing else changes, the raw buffer in particular. -/
def Obligations.LegacyMatcherTransition : Prop :=
  ∀ (s : State) (b : Byte) (rest : List Offer),
    s.variant = .legacy → s.phase = .search → s.held = [] → s.offers = .source (.byte b) :: rest →
    step s = .next (
      if ([0x5A, 0xA5, 0x00, 0xC0] : List Byte)[s.startCount.toNat]? = some b then
        (if s.startCount = 3 then { s with startCount := 0, fillCount := 0, phase := .speed, offers := rest }
         else { s with startCount := s.startCount + 1, offers := rest })
      else { s with startCount := 0, offers := rest })

/-- The five matcher operations complete in every state with the effect their rules give and no other (R121 to R125). -/
def Obligations.LegacyMatcherOperationsComplete : Prop :=
  ∀ s : State,
    exec .ls0 s = .next { s with startCount := 1 } ∧
    exec .ls1 s = .next { s with startCount := 2 } ∧
    exec .ls2 s = .next { s with startCount := 3 } ∧
    exec .ls3 s = .next { s with startCount := 0, fillCount := 0, phase := .speed } ∧
    ∀ cc b, exec (.lmiss cc b) s = .next { s with startCount := 0 }

/-- The matcher reuses no prefix: from count 0, `5A 5A A5 00 C0` and `5A A5 5A A5 00 C0` leave the unit searching at
count 0, where a prefix-reusing matcher would have matched (R125, corner cases 2 and 3). -/
def Obligations.LegacyMatcherReusesNoPrefix : Prop :=
  ∀ s : State, s.variant = .legacy → s.phase = .search → s.startCount = 0 →
    Sys2Proof.core.run 5 (s.feedBytes [0x5A, 0x5A, 0xA5, 0x00, 0xC0]) = .next (s.feedBytes []) ∧
    Sys2Proof.core.run 6 (s.feedBytes [0x5A, 0xA5, 0x5A, 0xA5, 0x00, 0xC0]) = .next (s.feedBytes [])

/-! ### Legacy frame (`42_legacy_frame.md`) -/

/-- LSPD0 writes the low half of `speed_raw` and keeps the high half, LSPD1 the other way round, and the two together
load the little-endian value of the two bytes (R130, R131). -/
def Obligations.SpeedBytesLoadLittleEndian : Prop :=
  ∀ (s : State) (b c : Byte),
    (∃ v, exec (.lspd0 b) s = .next { s with speedRaw := v, fillCount := 1 } ∧
      v.extractLsb' 0 8 = b ∧ v.extractLsb' 8 8 = s.speedRaw.extractLsb' 8 8) ∧
    (∃ v, exec (.lspd1 b) s = .next { s with speedRaw := v, fillCount := 0, phase := .fill } ∧
      v.extractLsb' 0 8 = s.speedRaw.extractLsb' 0 8 ∧ v.extractLsb' 8 8 = b) ∧
    (∀ t u, exec (.lspd0 b) s = .next t → exec (.lspd1 c) t = .next u →
      u.speedRaw.toNat = b.toNat + 256 * c.toNat)

/-- LBODY before the last body byte: the byte is stored at `fill_count`, every other byte and every other element stays,
and the count moves on (R132). -/
def Obligations.BodyByteIsStored : Prop :=
  ∀ (s : State) (b : Byte), s.variant = .legacy → s.fillCount.toNat < 1439 →
    ∃ raw fc, exec (.lbody b) s =
        .next { s with raw := raw, fillCount := fc, log := .store s.fillCount.toNat b :: s.log } ∧
      fc.toNat = s.fillCount.toNat + 1 ∧ Memory.read raw s.fillCount.toNat = some b ∧
      ∀ j, j ≠ s.fillCount.toNat → Memory.read raw j = Memory.read s.raw j

/-- LBODY at the last body byte: the byte is stored, all 360 slots are decoded by position, and the `poll()` returns
their scan with the legacy telemetry and geometry (R132, R133, R180, R181). -/
def Obligations.LastBodyByteCompletesThePoll : Prop :=
  ∀ (s : State) (b : Byte) (f : Nat → Byte), s.variant = .legacy → s.fillCount = 1439 → s.holdsBytes 1439 f →
    f 1439 = b →
    ∃ raw acc log, exec (.lbody b) s =
        .next { s with raw := raw, acc := acc, log := log, phase := .idle,
                       result := .scan ⟨acc, ⟨0, 2, 1 / 180, 3 / 50, 5⟩, .legacy s.speedRaw⟩ } ∧
      Memory.read raw 1439 = some b ∧ (∀ j, j ≠ 1439 → Memory.read raw j = Memory.read s.raw j) ∧
      ∀ a : Fin 360,
        acc[a].decodesFrom (f (4 * a)) (f (4 * a + 1)) (f (4 * a + 2)) (f (4 * a + 3))

/-- LDECODE: every slot becomes the sample at its position in the body, each written once and in ascending order; only
the slots and the event log change (R133). -/
def Obligations.BodyDecodesByPosition : Prop :=
  ∀ (s : State) (f : Nat → Byte), s.holdsBytes 1440 f →
    ∃ acc, exec .ldecode s = .next { s with acc := acc, log := passLog acc ++ s.log } ∧
      ∀ a : Fin 360,
        acc[a].decodesFrom (f (4 * a)) (f (4 * a + 1)) (f (4 * a + 2)) (f (4 * a + 3))

/-- A whole legacy frame, delivered to a searching unit at count 0: after 1446 bytes the unit is IDLE and its result is
the scan of the body with the little-endian speed, whatever the state held before (R134). -/
def Obligations.LegacyFrameYieldsItsScan : Prop :=
  ∀ (s : State) (s0 s1 : Byte) (d : Nat → Byte),
    s.variant = .legacy → s.phase = .search → s.startCount = 0 →
    ∃ t c v, Sys2Proof.core.run 1446
        (s.feedBytes ([0x5A, 0xA5, 0x00, 0xC0, s0, s1] ++ (List.range 1440).map d)) = .next t ∧
      t.phase = .idle ∧ t.offers = [] ∧ t.result = .scan c ∧
      c.telemetry = .legacy v ∧ v.toNat = s0.toNat + 256 * s1.toNat ∧
      ∀ a : Fin 360,
        c.samples[a].decodesFrom (d (4 * a)) (d (4 * a + 1)) (d (4 * a + 2)) (d (4 * a + 3))

/-! ### Packetized matcher and fill (`43_packet_sync.md`) -/

/-- The transition function of R144, for the two values the count has in this variant: `FA` at count 0 and `A0` at
count 1 are kept at their block offsets and move on, any other byte sets the count to 0; no other byte of the raw buffer
and no other element changes. -/
def Obligations.PacketMatcherTransition : Prop :=
  ∀ (s : State) (b : Byte) (rest : List Offer),
    s.variant = .packetized → s.phase = .search → s.startCount.toNat ≤ 1 → s.held = [] →
    s.offers = .source (.byte b) :: rest →
    if s.startCount = 0 ∧ b = 0xFA then
      ∃ raw, step s = .next { s with raw := raw, log := .store 0 b :: s.log, startCount := 1, offers := rest } ∧
        Memory.read raw 0 = some b ∧ ∀ j, j ≠ 0 → Memory.read raw j = Memory.read s.raw j
    else if s.startCount = 1 ∧ b = 0xA0 then
      ∃ raw, step s = .next { s with raw := raw, log := .store 1 b :: s.log, startCount := 0, fillCount := 2,
                                     phase := .fill, offers := rest } ∧
        Memory.read raw 1 = some b ∧ ∀ j, j ≠ 1 → Memory.read raw j = Memory.read s.raw j
    else step s = .next { s with startCount := 0, offers := rest }

/-- The three matcher operations complete in every state (R140 to R142). -/
def Obligations.PacketMatcherOperationsComplete : Prop :=
  ∀ s : State,
    (∃ raw, exec .ps0 s = .next { s with raw := raw, log := .store 0 0xFA :: s.log, startCount := 1 } ∧
      Memory.read raw 0 = some 0xFA ∧ ∀ j, j ≠ 0 → Memory.read raw j = Memory.read s.raw j) ∧
    (∃ raw, exec .ps1 s = .next { s with raw := raw, log := .store 1 0xA0 :: s.log, startCount := 0,
                                         fillCount := 2, phase := .fill } ∧
      Memory.read raw 1 = some 0xA0 ∧ ∀ j, j ≠ 1 → Memory.read raw j = Memory.read s.raw j) ∧
    ∀ c b, exec (.pmiss c b) s = .next { s with startCount := 0 }

/-- PFILL before the last block byte: the byte is stored at `fill_count`, every other byte and every other element
stays, and the count moves on (R143). -/
def Obligations.BlockByteIsStored : Prop :=
  ∀ (s : State) (b : Byte), s.variant = .packetized → s.fillCount.toNat < 1979 →
    ∃ raw fc, exec (.pfill b) s =
        .next { s with raw := raw, fillCount := fc, log := .store s.fillCount.toNat b :: s.log } ∧
      fc.toNat = s.fillCount.toNat + 1 ∧ Memory.read raw s.fillCount.toNat = some b ∧
      ∀ j, j ≠ s.fillCount.toNat → Memory.read raw j = Memory.read s.raw j

/-- PFILL at the last block byte: the byte is stored, the walk of the stored block runs, and the `poll()` returns the
scan of what the walk leaves, with the packetized telemetry and geometry; however the block looks (R143, R157, R181). -/
def Obligations.LastBlockByteWalksAndCompletes : Prop :=
  ∀ (s : State) (b : Byte), s.variant = .packetized → s.fillCount = 1979 → s.writtenBelow 1979 →
    ∃ raw u, Memory.read raw 1979 = some b ∧ (∀ j, j ≠ 1979 → Memory.read raw j = Memory.read s.raw j) ∧
      exec .walk { s with raw := raw, log := .store 1979 b :: s.log } = .next u ∧
      exec (.pfill b) s = .next { u with
        phase := .idle
        result := .scan ⟨u.acc, ⟨0, 359 / 180, 1 / 180, 3 / 20, 5⟩, .packetized u.speedSum u.goodPackets⟩ }

/-! ### Packet walk (`44_packet_walk.md`) -/

/-- WSKIP moves the cursor one byte on and WCORRUPT to the premature header; neither changes anything else (R154,
R155). -/
def Obligations.SkipAndCorruptMoveTheCursorOnly : Prop :=
  ∀ s : State,
    exec .wskip s = .next { s with locals := { s.locals with cursor := s.locals.cursor + 1 } } ∧
    exec .wcorrupt s = .next { s with locals := { s.locals with cursor := s.locals.cursor + s.locals.kMin } }

/-- WACCEPT of packet `idx` at cursor `i`: the little-endian speed is added to the sum, the packet counted, its four
samples decoded into the slots `4 idx + 0..3` and no other slot touched, the cursor moves 22 on, and `stop` is set after
index 89; nothing else changes (R156). That the sum and the counter are taken modulo their widths is the model's choice, log 16:
the spec states no wrap, and R110 only that no run exceeds the widths. -/
def Obligations.AcceptUsesThePacket : Prop :=
  ∀ (s : State) (f : Nat → Byte) (i idx : Nat), s.locals.cursor = i → s.locals.idx.toNat = idx → idx ≤ 89 →
    i + 20 ≤ Config.rawLen s.variant → (∀ j, i + 2 ≤ j → j < i + 20 → Memory.read s.raw j = some (f j)) →
    ∃ sum good acc log, exec .waccept s = .next { s with
        speedSum := sum, goodPackets := good, acc := acc, log := log
        locals := { s.locals with cursor := i + 22, stop := s.locals.stop || decide (idx = 89) } } ∧
      sum.toNat = (s.speedSum.toNat + (f (i + 2)).toNat + 256 * (f (i + 3)).toNat) % 2 ^ 23 ∧
      good.toNat = (s.goodPackets.toNat + 1) % 2 ^ 7 ∧
      ∀ a : Fin 360,
        if a.val / 4 = idx then
          acc[a].decodesFrom (f (i + 4 + 4 * (a.val % 4))) (f (i + 5 + 4 * (a.val % 4)))
            (f (i + 6 + 4 * (a.val % 4))) (f (i + 7 + 4 * (a.val % 4)))
        else acc[a] = s.acc[a]

/-- One iteration of the walk: the candidate test and the premature-header scan give the WALK2 key, and the iteration is
the operation the opcode table gives that key, run with its packet index and its `k_min`, the least offset of a premature
header (R85, R152, R155). -/
def Obligations.WalkSelectsByItsKey : Prop :=
  ∀ (s : State) (f : Nat → Byte), s.variant = .packetized → s.locals.cursor + 22 ≤ 1980 → s.holdsBytes 1980 f →
    ∃ op cand idx prem kMin,
      decode (.walk2 (BitVec.ofBool cand ++ BitVec.ofBool prem)) = .ok op ∧
      answer s.walkIter = exec op { s with locals :=
        { s.locals with candidate := cand, idx := idx, premature := prem, kMin := kMin } } ∧
      (cand = true ↔ f s.locals.cursor = 0xFA ∧ 160 ≤ (f (s.locals.cursor + 1)).toNat ∧
        (f (s.locals.cursor + 1)).toNat ≤ 249) ∧
      (cand = true → idx.toNat + 160 = (f (s.locals.cursor + 1)).toNat) ∧
      (cand = true → (prem = true ↔ ∃ k, 2 ≤ k ∧ k ≤ 21 ∧ f (s.locals.cursor + k) = 0xFA)) ∧
      (cand = true → prem = true → 2 ≤ kMin ∧ kMin ≤ 21 ∧ f (s.locals.cursor + kMin) = 0xFA ∧
        ∀ k, 2 ≤ k → k < kMin → f (s.locals.cursor + k) ≠ 0xFA)

/-- Every iteration moves the cursor on by 1 to 22 bytes, and never writes the raw buffer (R158, R65). -/
def Obligations.EveryIterationMovesOn : Prop :=
  ∀ s t : State, s.walkIter = .ok t →
    s.locals.cursor + 1 ≤ t.locals.cursor ∧ t.locals.cursor ≤ s.locals.cursor + 22 ∧ t.raw = s.raw

/-- The loop needs at most 1959 iterations: more fuel changes nothing, and when it ends, it ends because no packet fits at
the cursor or angle 359 was written (R157, R158). -/
def Obligations.WalkEndsWithin1959Iterations : Prop :=
  ∀ (s : State) (n : Nat), 1959 ≤ n → State.walkLoop n s = State.walkLoop 1959 s ∧
    ∀ t, State.walkLoop n s = .ok t → t.locals.cursor + 22 > 1980 ∨ t.locals.stop = true

/-- One walk accepts at most 90 packets, each adding at most 65535 to the sum (R159, R27). -/
def Obligations.AtMostNinetyPacketsAccepted : Prop :=
  ∀ s t : State, s.speedSum = 0 → s.goodPackets = 0 → exec .walk s = .next t →
    t.goodPackets.toNat ≤ 90 ∧ t.speedSum.toNat ≤ 65535 * t.goodPackets.toNat

/-- WALK is the loop, run from the cursor 0 with `stop` down, its locals put back at the end; and on a stored block,
whatever it holds, it completes and changes the sum, the counter, the slots and the event log only (R152, R157, R24). -/
def Obligations.WalkCompletesOnEveryBlock : Prop :=
  (∀ s : State, exec .walk s = answer
    ((State.walkLoop 1959 { s with locals := Locals.init }).map (fun t => { t with locals := Locals.init }))) ∧
  Locals.init.cursor = 0 ∧ Locals.init.stop = false ∧
  ∀ s : State, s.variant = .packetized → s.writtenBelow 1980 →
    ∃ u sum good acc log, State.walkLoop 1959 { s with locals := Locals.init } = .ok u ∧
      exec .walk s = .next { u with locals := Locals.init } ∧
      u = { s with speedSum := sum, goodPackets := good, acc := acc, log := log, locals := u.locals }

/-- A well-formed revolution: 90 packets at the offsets `22 p` with the index bytes `A0 + p` and no header byte inside.
The walk accepts all 90, sums their speeds, and writes every slot exactly once, in order, with its packet's sample; the
raw buffer and the rest stay (R162). -/
def Obligations.WellFormedRevolutionIsDecoded : Prop :=
  ∀ (s : State) (f : Nat → Byte), s.variant = .packetized → s.speedSum = 0 → s.goodPackets = 0 → s.holdsBytes 1980 f →
    (∀ p < 90, f (22 * p) = 0xFA ∧ (f (22 * p + 1)).toNat = 160 + p ∧ ∀ k, 2 ≤ k → k ≤ 21 → f (22 * p + k) ≠ 0xFA) →
    ∃ sum acc, exec .walk s = .next { s with
        speedSum := sum, goodPackets := 90, acc := acc, log := passLog acc ++ s.log, locals := Locals.init } ∧
      sum.toNat = ∑ p ∈ Finset.range 90, ((f (22 * p + 2)).toNat + 256 * (f (22 * p + 3)).toNat) ∧
      ∀ (p : Fin 90) (o : Fin 4),
        (acc[4 * p.val + o.val]'(by omega)).decodesFrom (f (22 * p + 4 + 4 * o)) (f (22 * p + 5 + 4 * o))
          (f (22 * p + 6 + 4 * o)) (f (22 * p + 7 + 4 * o))

/-- Resynchronisation: a packet at the cursor with one spurious header byte at offset `k`, followed by a header byte at
its end, is dropped whole, and the walk comes to that header with the sum, the counter and the slots as they were
(R161). -/
def Obligations.SpuriousHeaderResynchronises : Prop :=
  ∀ (s : State) (f : Nat → Byte) (i k : Nat), s.variant = .packetized → s.holdsBytes 1980 f →
    s.locals.cursor = i → s.locals.stop = false → i + 44 ≤ 1980 →
    f i = 0xFA → 160 ≤ (f (i + 1)).toNat → (f (i + 1)).toNat ≤ 249 →
    2 ≤ k → k ≤ 21 → f (i + k) = 0xFA → (∀ m, 2 ≤ m → m ≤ 21 → m ≠ k → f (i + m) ≠ 0xFA) → f (i + 22) = 0xFA →
    ∃ n t, State.walkLoop n s = .ok t ∧ t.locals.cursor = i + 22 ∧ t.locals.stop = false ∧
      t.acc = s.acc ∧ t.speedSum = s.speedSum ∧ t.goodPackets = s.goodPackets

/-- Accepting a packet of index 89 sets `stop`, and with `stop` set the loop does nothing more, wherever the cursor is
(R156, R157). -/
def Obligations.WalkStopsAfterIndex89 : Prop :=
  (∀ s t : State, s.locals.idx = 89 → exec .waccept s = .next t →
    t.locals.stop = true ∧ ∀ n, State.walkLoop n t = .ok t) ∧
  ∀ (s : State) (n : Nat), s.locals.stop = true → State.walkLoop n s = .ok s

/-! ### Field decoders (`40_sample_decode.md`) -/

/-- SAMPLE answers the record of R79's arithmetic on the four bytes and changes nothing else (R106). -/
def Obligations.SampleDecodesTheFourBytes : Prop :=
  ∀ (b0 b1 b2 b3 : Byte) (s : State), ∃ x,
    exec (.sample b0 b1 b2 b3) s = .next { s with locals := { s.locals with sample := x } } ∧
    x.decodesFrom b0 b1 b2 b3

/-- The map from four bytes to slot records is a bijection (R106). -/
def Obligations.SampleIsABijection : Prop :=
  (∀ b0 b1 b2 b3 c0 c1 c2 c3 : Byte, Operands.sample b0 b1 b2 b3 = Operands.sample c0 c1 c2 c3 →
    b0 = c0 ∧ b1 = c1 ∧ b2 = c2 ∧ b3 = c3) ∧
  ∀ x : Slot, ∃ b0 b1 b2 b3 : Byte, Operands.sample b0 b1 b2 b3 = x

/-- RANGE answers `byte0 + 256 × (byte1 AND 0x3F)` and changes nothing else (R101). -/
def Obligations.RangeKeepsFourteenBits : Prop :=
  ∀ (b0 b1 : Byte) (s : State), ∃ v,
    exec (.range b0 b1) s = .next { s with locals := { s.locals with range := v } } ∧
    v.toNat = b0.toNat + 256 * (b1 &&& 0x3F).toNat

/-- TOOCLOSE and NORETURN answer bits 6 and 7 of `byte1` and change nothing else (R103, R104). -/
def Obligations.FlagSlicersAnswerTheTopBits : Prop :=
  ∀ (b1 : Byte) (s : State),
    (∃ f, exec (.tooclose b1) s = .next { s with locals := { s.locals with tooClose := f } } ∧
      (f = true ↔ b1.toNat / 64 % 2 = 1)) ∧
    (∃ f, exec (.noreturn b1) s = .next { s with locals := { s.locals with noReturn := f } } ∧
      (f = true ↔ b1.toNat / 128 % 2 = 1))

/-- LE16, INTENS and SPEED16 answer the little-endian value of their two bytes, all 16 bits, and change nothing else
(R100, R105, R107). -/
def Obligations.PairLoadsAreLittleEndian : Prop :=
  ∀ (lo hi : Byte) (s : State),
    (∃ v, exec (.le16 lo hi) s = .next { s with locals := { s.locals with le16 := v } } ∧
      v.toNat = 256 * hi.toNat + lo.toNat) ∧
    (∃ v, exec (.intens lo hi) s = .next { s with locals := { s.locals with intens := v } } ∧
      v.toNat = 256 * hi.toNat + lo.toNat) ∧
    (∃ v, exec (.speed16 lo hi) s = .next { s with locals := { s.locals with speed := v } } ∧
      v.toNat = 256 * hi.toNat + lo.toNat)

/-- ANGLE answers `4 × idx + o` for the 90 packet indices and changes nothing else, and it is a bijection from the 90 × 4
pairs onto 0..359 (R109). -/
def Obligations.AngleIsABijectionOntoTheSlots : Prop :=
  (∀ (idx : BitVec 7) (o : BitVec 2) (s : State), idx.toNat ≤ 89 → ∃ v,
    exec (.angle idx o) s = .next { s with locals := { s.locals with angle := v } } ∧
    v.toNat = 4 * idx.toNat + o.toNat ∧ v.toNat ≤ 359) ∧
  ∀ a < 360, ∃! p : BitVec 7 × BitVec 2, p.1.toNat ≤ 89 ∧ (Operands.angle p.1 p.2).toNat = a

/-! ### Scan accumulator and views (`45_scan_accumulator.md`) -/

/-- REINIT sets all four fields of all 360 slots to zero and changes nothing else (R170). -/
def Obligations.ReinitClearsEverySlot : Prop :=
  ∀ s : State, ∃ acc, exec .reinit s = .next { s with acc := acc } ∧ ∀ a : Fin 360, acc[a] = ⟨0, false, false, 0⟩

/-- SLOTWR overwrites the slot of an angle 0..359, whatever it held, and no other; it changes nothing else but the event
log. An angle above 359 does not exist: the model faults there (log 13). -/
def Obligations.SlotWriteOverwritesOneSlot : Prop :=
  ∀ (s : State) (a : BitVec 9) (rec : Slot),
    (a.toNat < 360 → ∃ acc, exec (.slotwr a rec) s =
        .next { s with acc := acc, log := .slot a.toNat rec :: s.log } ∧
      ∀ b : Fin 360, acc[b] = if b.val = a.toNat then rec else s.acc[b]) ∧
    (360 ≤ a.toNat → exec (.slotwr a rec) s = .fault .slotBounds)

/-- COMPLETE copies the slots into the result with the geometry constants and the telemetry of the variant, returns to
IDLE, and changes nothing else (R8, R180, R181). -/
def Obligations.CompleteReturnsTheScan : Prop :=
  ∀ s : State,
    (s.variant = .legacy → exec .complete s =
      .next { s with result := .scan ⟨s.acc, ⟨0, 2, 1 / 180, 3 / 50, 5⟩, .legacy s.speedRaw⟩, phase := .idle }) ∧
    (s.variant = .packetized → exec .complete s =
      .next { s with result := .scan ⟨s.acc, ⟨0, 359 / 180, 1 / 180, 3 / 20, 5⟩,
                                      .packetized s.speedSum s.goodPackets⟩, phase := .idle })

/-- The timing views of a packetized scan in closed form: `rpm = speed_sum / (64 × good_packets)` or 0 without a packet,
`scan_time = 3840 × good_packets / speed_sum` or 0 for a zero sum, `time_increment` a 360th of it (R176, R177, R178). -/
def Obligations.PacketizedTimingViews : Prop :=
  ∀ (c : Scan) (sum : BitVec 23) (n : BitVec 7), c.telemetry = .packetized sum n →
    c.rpm? = some (if n = 0 then 0 else (sum.toNat : ℚ) / (64 * n.toNat)) ∧
    c.scanTime? = some (if sum = 0 then 0 else 3840 * (n.toNat : ℚ) / sum.toNat) ∧
    c.timeIncrement = (if sum = 0 then 0 else 3840 * (n.toNat : ℚ) / sum.toNat) / 360

/-- A legacy scan has no `rpm` and no `scan_time`, its `time_increment` is `speed_raw / 100000000`; a packetized scan's is
its `scan_time` over 360; in both variants `range_m` is the millimetres over 1000 and the intensity is as stored (R175,
R178, R179). -/
def Obligations.LegacyTimingAndSampleViews : Prop :=
  ∀ c : Scan,
    (∀ v, c.telemetry = .legacy v →
      c.rpm? = none ∧ c.scanTime? = none ∧ c.timeIncrement = (v.toNat : ℚ) / 100000000) ∧
    (∀ sum n, c.telemetry = .packetized sum n →
      ∃ time, c.scanTime? = some time ∧ c.timeIncrement = time / 360 ∧ (time = 0 → c.timeIncrement = 0)) ∧
    ∀ a : Fin 360, c.rangeM a = (c.samples[a].rangeMm.toNat : ℚ) / 1000 ∧ c.intensity a = c.samples[a].intensity.toNat

/-! ### The whole machine -/

/-- The invariant of the reachable states holds at reset (R43). -/
def Obligations.ResetSatisfiesTheInvariant : Prop := Inv State.reset

/-- Every step of events keeps the invariant of the reachable states, from every state that has it (R43). -/
def Obligations.EveryStepKeepsTheInvariant : Prop :=
  ∀ s t : State, Inv s → step s = .next t → Inv t

/-- No step of events faults in a state with the invariant: no access is out of range and no byte is read before it is
written (R58, R42). -/
def Obligations.NoStepFaults : Prop :=
  ∀ (s : State) (f : Fault), Inv s → step s ≠ .fault f

/-- In a state with the invariant, the only step that is refused is POLL while a `poll()` is outstanding (R38, R88, R193).
That the byte source holds nothing then is the model's choice, log 5: a held event is taken before the host's POLL. -/
def Obligations.OnlyPollWhileBusyIsRefused : Prop :=
  ∀ (s : State) (r : Refusal), Inv s → step s = .refused r →
    r = .pollWhileBusy ∧ s.busy = true ∧ s.held = [] ∧ ∃ rest, s.offers = .poll :: rest

/-- No operation changes the variant (R2, R6). -/
def Obligations.VariantIsFixed : Prop :=
  ∀ (i : Instr) (s t : State), exec i s = .next t → t.variant = s.variant

/-- Who writes what: an operation that is not one of the writers the rules name leaves the phase (R22), the sync state
(R23), the fill counter (R25), the raw buffer (R50), the slots (R51, R172), the result (R32), the speed register (R26), and
the sum and the counter (R27, R28) as they were. RESET counts as a writer of each (R42, R192). -/
def Obligations.OnlyTheNamedWritersWrite : Prop :=
  ∀ (i : Instr) (s t : State), exec i s = .next t →
    (i.op ∉ [Op.poll, .fail, .reset, .ls3, .lspd1, .lbody, .ps1, .pfill, .complete] → t.phase = s.phase) ∧
    (i.op ∉ [Op.poll, .fail, .reset, .ls0, .ls1, .ls2, .ls3, .lmiss, .ps0, .ps1, .pmiss] →
      t.startCount = s.startCount) ∧
    (i.op ∉ [Op.reset, .ls3, .lspd0, .lspd1, .lbody, .ps1, .pfill] → t.fillCount = s.fillCount) ∧
    (i.op ∉ [Op.lbody, .ps0, .ps1, .pfill, .reset] → t.raw = s.raw) ∧
    (i.op ∉ [Op.poll, .lbody, .pfill, .ldecode, .walk, .waccept, .reinit, .slotwr, .reset] → t.acc = s.acc) ∧
    (i.op ∉ [Op.poll, .fail, .lbody, .pfill, .complete, .reset] → t.result = s.result) ∧
    (i.op ∉ [Op.lspd0, .lspd1, .reset] → t.speedRaw = s.speedRaw) ∧
    (i.op ∉ [Op.poll, .pfill, .walk, .waccept, .reset] → t.speedSum = s.speedSum ∧ t.goodPackets = s.goodPackets)

/-- Independence of revolutions: two units of one variant, whatever they held before, that start a `poll()` and get the
same events go through the same phases and return the same result (R173). -/
def Obligations.ResultDependsOnThisPollOnly : Prop :=
  ∀ (s s' : State) (es : List SourceEvent) (n : Nat) (t : State), s.variant = s'.variant →
    Sys2Proof.core.run n (s.startPoll.feed es) = .next t →
    ∃ t', Sys2Proof.core.run n (s'.startPoll.feed es) = .next t' ∧ t'.phase = t.phase ∧ t'.result = t.result

/-- The loop of the walk, unrolled once: while a whole packet fits at the cursor and `stop` is down, one iteration and
then the loop again; otherwise the state as it is (R152, R157). -/
def Obligations.WalkLoopUnrolls : Prop :=
  ∀ s : State, State.walkLoop 1959 s =
    if s.locals.cursor + 22 ≤ 1980 ∧ s.locals.stop = false then s.walkIter >>= State.walkLoop 1959 else .ok s

/-- Independence of revolutions, as a relation of two states that every step keeps: starting a `poll()` with the same
events brings any two units of one variant into it, and when one of two related units takes a step, the other takes it
too, and they stay related, with the same phase and the same result (R173). -/
def Obligations.EveryStepKeepsTwoUnitsAlike : Prop :=
  (∀ (s s' : State) (es : List SourceEvent), s.variant = s'.variant →
    SamePoll (s.startPoll.feed es) (s'.startPoll.feed es)) ∧
  ∀ s s' t : State, SamePoll s s' → step s = .next t → ∃ t', step s' = .next t' ∧ SamePoll t t'
end

