-- ==== Sys2Proof/Laws/Memory.lean ====
section
/-! SUPPORT. The laws of the raw buffer: read after write, the canonical form and what keeps it, and that the canonical
form makes equal contents equal data. -/

namespace Sys2Proof.Machine

/-- Every listed offset is above `n`. -/
def Memory.above (n : Nat) (m : Memory) : Prop := ∀ c ∈ m, n < c.1

theorem Memory.wf_cons {a : Nat} {b : Byte} {m : Memory} :
    Memory.wf ((a, b) :: m) = true ↔ Memory.above a m ∧ Memory.wf m = true := by
  induction m generalizing a b with
  | nil => simp [Memory.wf, Memory.above]
  | cons c m ih =>
    obtain ⟨c, d⟩ := c
    simp only [Memory.wf, Bool.and_eq_true, decide_eq_true_eq, Memory.above, List.mem_cons, forall_eq_or_imp]
    constructor
    · rintro ⟨h, hw⟩
      exact ⟨⟨h, fun e he => lt_trans h ((ih.1 hw).1 e he)⟩, hw⟩
    · rintro ⟨⟨h, -⟩, hw⟩
      exact ⟨h, hw⟩

theorem Memory.read_of_above {n j : Nat} {m : Memory} (h : Memory.above n m) (hj : j ≤ n) : Memory.read m j = none := by
  cases m with
  | nil => rfl
  | cons c m =>
    have hc := h c (List.mem_cons_self ..)
    obtain ⟨c, d⟩ := c
    simp only at hc
    have h1 : j ≠ c := by omega
    have h2 : j < c := by omega
    simp [Memory.read, h1, h2]

@[simp] theorem Memory.read_write_same (m : Memory) (j : Nat) (x : Byte) :
    Memory.read (Memory.write m j x) j = some x := by
  induction m with
  | nil => simp [Memory.write, Memory.read]
  | cons c m ih =>
    obtain ⟨a, b⟩ := c
    simp only [Memory.write]
    split
    · simp_all [Memory.read]
    · split
      · simp [Memory.read]
      · simp_all [Memory.read]

theorem Memory.read_write_other (m : Memory) {j k : Nat} (x : Byte) (h : k ≠ j) :
    Memory.read (Memory.write m j x) k = Memory.read m k := by
  induction m with
  | nil => simp [Memory.write, Memory.read, h]
  | cons c m ih =>
    obtain ⟨a, b⟩ := c
    simp only [Memory.write]
    split
    · subst_vars; simp [Memory.read, h]
    · split
      · simp only [Memory.read, h, if_false]
        split_ifs <;> first | rfl | omega
      · simp only [Memory.read, ih]

theorem Memory.write_above {n j : Nat} {m : Memory} (x : Byte) (h : Memory.above n m) (hj : n < j) :
    Memory.above n (Memory.write m j x) := by
  induction m with
  | nil => simpa [Memory.write, Memory.above] using hj
  | cons c m ih =>
    obtain ⟨a, b⟩ := c
    have ha : n < a := h (a, b) (List.mem_cons_self ..)
    have hm : Memory.above n m := fun e he => h e (List.mem_cons_of_mem _ he)
    simp only [Memory.write]
    split_ifs <;> intro e he <;> simp only [List.mem_cons] at he
    · rcases he with rfl | he
      · exact ha
      · exact hm e he
    · rcases he with rfl | rfl | he
      · exact hj
      · exact ha
      · exact hm e he
    · rcases he with rfl | he
      · exact ha
      · exact ih hm e he

/-- A store keeps the canonical form. -/
theorem Memory.write_wf {m : Memory} (j : Nat) (x : Byte) (h : Memory.wf m = true) :
    Memory.wf (Memory.write m j x) = true := by
  induction m with
  | nil => rfl
  | cons c m ih =>
    obtain ⟨a, b⟩ := c
    obtain ⟨ha, hm⟩ := Memory.wf_cons.1 h
    simp only [Memory.write]
    split
    · exact Memory.wf_cons.2 ⟨ha, hm⟩
    · split
      · rename_i h1 h2
        refine Memory.wf_cons.2 ⟨fun e he => ?_, h⟩
        rcases List.mem_cons.1 he with rfl | he
        · exact h2
        · exact lt_trans h2 (ha e he)
      · exact Memory.wf_cons.2 ⟨Memory.write_above x ha (by omega), ih hm⟩

/-- Two canonical buffers with the same bytes are the same list. -/
theorem Memory.ext_of_read {m n : Memory} (hm : Memory.wf m = true) (hn : Memory.wf n = true)
    (h : ∀ j, Memory.read m j = Memory.read n j) : m = n := by
  induction m generalizing n with
  | nil =>
    cases n with
    | nil => rfl
    | cons c n => obtain ⟨a, b⟩ := c; simpa [Memory.read] using h a
  | cons c m ih =>
    obtain ⟨a, b⟩ := c
    cases n with
    | nil => simpa [Memory.read] using h a
    | cons d n =>
      obtain ⟨e, f⟩ := d
      obtain ⟨ha, hm'⟩ := Memory.wf_cons.1 hm
      obtain ⟨he, hn'⟩ := Memory.wf_cons.1 hn
      have hae : a = e := by
        have h1 := h a
        have h2 := h e
        simp only [Memory.read] at h1 h2
        rcases lt_trichotomy a e with h3 | h3 | h3
        · simp [h3, h3.ne] at h1
        · exact h3
        · simp [h3, h3.ne] at h2
      subst hae
      have hb : b = f := by simpa [Memory.read] using h a
      subst hb
      refine congrArg _ (ih hm' hn' fun j => ?_)
      have hj := h j
      simp only [Memory.read] at hj
      by_cases h1 : j = a
      · subst h1; rw [Memory.read_of_above ha le_rfl, Memory.read_of_above he le_rfl]
      · by_cases h2 : j < a
        · rw [Memory.read_of_above ha h2.le, Memory.read_of_above he h2.le]
        · simpa [h1, h2] using hj

end Sys2Proof.Machine
end

