-- ==== Sys2Proof/Laws/State.lean ====
section
/-! SUPPORT. One lemma per field per named update of the state, each true by definition. -/

namespace Sys2Proof.Machine

/-! ### clearSlots -/

@[simp] theorem State.clearSlots_variant (s : State) : (s.clearSlots).variant = s.variant := rfl
@[simp] theorem State.clearSlots_phase (s : State) : (s.clearSlots).phase = s.phase := rfl
@[simp] theorem State.clearSlots_startCount (s : State) : (s.clearSlots).startCount = s.startCount := rfl
@[simp] theorem State.clearSlots_fillCount (s : State) : (s.clearSlots).fillCount = s.fillCount := rfl
@[simp] theorem State.clearSlots_raw (s : State) : (s.clearSlots).raw = s.raw := rfl
@[simp] theorem State.clearSlots_speedRaw (s : State) : (s.clearSlots).speedRaw = s.speedRaw := rfl
@[simp] theorem State.clearSlots_speedSum (s : State) : (s.clearSlots).speedSum = s.speedSum := rfl
@[simp] theorem State.clearSlots_goodPackets (s : State) : (s.clearSlots).goodPackets = s.goodPackets := rfl
@[simp] theorem State.clearSlots_acc (s : State) : (s.clearSlots).acc = clearedSlots := rfl
@[simp] theorem State.clearSlots_result (s : State) : (s.clearSlots).result = s.result := rfl
@[simp] theorem State.clearSlots_offers (s : State) : (s.clearSlots).offers = s.offers := rfl
@[simp] theorem State.clearSlots_held (s : State) : (s.clearSlots).held = s.held := rfl
@[simp] theorem State.clearSlots_locals (s : State) : (s.clearSlots).locals = s.locals := rfl
@[simp] theorem State.clearSlots_log (s : State) : (s.clearSlots).log = s.log := rfl
@[simp] theorem State.clearSlots_freeCount (s : State) : (s.clearSlots).freeCount = s.freeCount := rfl

/-! ### finish -/

@[simp] theorem State.finish_variant (s : State) : (s.finish).variant = s.variant := rfl
@[simp] theorem State.finish_phase (s : State) : (s.finish).phase = .idle := rfl
@[simp] theorem State.finish_startCount (s : State) : (s.finish).startCount = s.startCount := rfl
@[simp] theorem State.finish_fillCount (s : State) : (s.finish).fillCount = s.fillCount := rfl
@[simp] theorem State.finish_raw (s : State) : (s.finish).raw = s.raw := rfl
@[simp] theorem State.finish_speedRaw (s : State) : (s.finish).speedRaw = s.speedRaw := rfl
@[simp] theorem State.finish_speedSum (s : State) : (s.finish).speedSum = s.speedSum := rfl
@[simp] theorem State.finish_goodPackets (s : State) : (s.finish).goodPackets = s.goodPackets := rfl
@[simp] theorem State.finish_acc (s : State) : (s.finish).acc = s.acc := rfl
@[simp] theorem State.finish_result (s : State) : (s.finish).result = .scan s.scanRecord := rfl
@[simp] theorem State.finish_offers (s : State) : (s.finish).offers = s.offers := rfl
@[simp] theorem State.finish_held (s : State) : (s.finish).held = s.held := rfl
@[simp] theorem State.finish_locals (s : State) : (s.finish).locals = s.locals := rfl
@[simp] theorem State.finish_log (s : State) : (s.finish).log = s.log := rfl
@[simp] theorem State.finish_freeCount (s : State) : (s.finish).freeCount = s.freeCount := rfl

/-! ### raiseTransportFailure -/

@[simp] theorem State.raiseTransportFailure_variant (s : State) : (s.raiseTransportFailure).variant = s.variant := rfl
@[simp] theorem State.raiseTransportFailure_phase (s : State) : (s.raiseTransportFailure).phase = .idle := rfl
@[simp] theorem State.raiseTransportFailure_startCount (s : State) : (s.raiseTransportFailure).startCount = 0 := rfl
@[simp] theorem State.raiseTransportFailure_fillCount (s : State) : (s.raiseTransportFailure).fillCount = s.fillCount := rfl
@[simp] theorem State.raiseTransportFailure_raw (s : State) : (s.raiseTransportFailure).raw = s.raw := rfl
@[simp] theorem State.raiseTransportFailure_speedRaw (s : State) : (s.raiseTransportFailure).speedRaw = s.speedRaw := rfl
@[simp] theorem State.raiseTransportFailure_speedSum (s : State) : (s.raiseTransportFailure).speedSum = s.speedSum := rfl
@[simp] theorem State.raiseTransportFailure_goodPackets (s : State) : (s.raiseTransportFailure).goodPackets = s.goodPackets := rfl
@[simp] theorem State.raiseTransportFailure_acc (s : State) : (s.raiseTransportFailure).acc = s.acc := rfl
@[simp] theorem State.raiseTransportFailure_result (s : State) : (s.raiseTransportFailure).result = .failure .transportFailure := rfl
@[simp] theorem State.raiseTransportFailure_offers (s : State) : (s.raiseTransportFailure).offers = s.offers := rfl
@[simp] theorem State.raiseTransportFailure_held (s : State) : (s.raiseTransportFailure).held = s.held := rfl
@[simp] theorem State.raiseTransportFailure_locals (s : State) : (s.raiseTransportFailure).locals = s.locals := rfl
@[simp] theorem State.raiseTransportFailure_log (s : State) : (s.raiseTransportFailure).log = s.log := rfl
@[simp] theorem State.raiseTransportFailure_freeCount (s : State) : (s.raiseTransportFailure).freeCount = s.freeCount := rfl

/-! ### startPoll -/

@[simp] theorem State.startPoll_variant (s : State) : (s.startPoll).variant = s.variant := rfl
@[simp] theorem State.startPoll_phase (s : State) : (s.startPoll).phase = .search := rfl
@[simp] theorem State.startPoll_startCount (s : State) : (s.startPoll).startCount = 0 := rfl
@[simp] theorem State.startPoll_fillCount (s : State) : (s.startPoll).fillCount = s.fillCount := rfl
@[simp] theorem State.startPoll_raw (s : State) : (s.startPoll).raw = s.raw := rfl
@[simp] theorem State.startPoll_speedRaw (s : State) : (s.startPoll).speedRaw = s.speedRaw := rfl
@[simp] theorem State.startPoll_speedSum (s : State) : (s.startPoll).speedSum = 0 := rfl
@[simp] theorem State.startPoll_goodPackets (s : State) : (s.startPoll).goodPackets = 0 := rfl
@[simp] theorem State.startPoll_acc (s : State) : (s.startPoll).acc = clearedSlots := rfl
@[simp] theorem State.startPoll_result (s : State) : (s.startPoll).result = .none := rfl
@[simp] theorem State.startPoll_offers (s : State) : (s.startPoll).offers = s.offers := rfl
@[simp] theorem State.startPoll_held (s : State) : (s.startPoll).held = s.held := rfl
@[simp] theorem State.startPoll_locals (s : State) : (s.startPoll).locals = s.locals := rfl
@[simp] theorem State.startPoll_log (s : State) : (s.startPoll).log = s.log := rfl
@[simp] theorem State.startPoll_freeCount (s : State) : (s.startPoll).freeCount = s.freeCount := rfl

/-! ### resetUnit -/

@[simp] theorem State.resetUnit_variant (s : State) : (s.resetUnit).variant = s.variant := rfl
@[simp] theorem State.resetUnit_phase (s : State) : (s.resetUnit).phase = .idle := rfl
@[simp] theorem State.resetUnit_startCount (s : State) : (s.resetUnit).startCount = 0 := rfl
@[simp] theorem State.resetUnit_fillCount (s : State) : (s.resetUnit).fillCount = Config.freeFillCount s.freeCount := rfl
@[simp] theorem State.resetUnit_raw (s : State) : (s.resetUnit).raw = [] := rfl
@[simp] theorem State.resetUnit_speedRaw (s : State) : (s.resetUnit).speedRaw = Config.freeSpeedRaw s.freeCount := rfl
@[simp] theorem State.resetUnit_speedSum (s : State) : (s.resetUnit).speedSum = Config.freeSpeedSum s.freeCount := rfl
@[simp] theorem State.resetUnit_goodPackets (s : State) : (s.resetUnit).goodPackets = Config.freeGoodPackets s.freeCount := rfl
@[simp] theorem State.resetUnit_acc (s : State) : (s.resetUnit).acc = Vector.ofFn (fun a => Config.freeSlot s.freeCount a.val) := rfl
@[simp] theorem State.resetUnit_result (s : State) : (s.resetUnit).result = .none := rfl
@[simp] theorem State.resetUnit_offers (s : State) : (s.resetUnit).offers = s.offers := rfl
@[simp] theorem State.resetUnit_held (s : State) : (s.resetUnit).held = s.held := rfl
@[simp] theorem State.resetUnit_locals (s : State) : (s.resetUnit).locals = Locals.init := rfl
@[simp] theorem State.resetUnit_log (s : State) : (s.resetUnit).log = s.log := rfl
@[simp] theorem State.resetUnit_freeCount (s : State) : (s.resetUnit).freeCount = s.freeCount + 1 := rfl

/-! ### advance -/

@[simp] theorem State.advance_variant (s : State) (n : Nat) : (s.advance n).variant = s.variant := rfl
@[simp] theorem State.advance_phase (s : State) (n : Nat) : (s.advance n).phase = s.phase := rfl
@[simp] theorem State.advance_startCount (s : State) (n : Nat) : (s.advance n).startCount = s.startCount := rfl
@[simp] theorem State.advance_fillCount (s : State) (n : Nat) : (s.advance n).fillCount = s.fillCount := rfl
@[simp] theorem State.advance_raw (s : State) (n : Nat) : (s.advance n).raw = s.raw := rfl
@[simp] theorem State.advance_speedRaw (s : State) (n : Nat) : (s.advance n).speedRaw = s.speedRaw := rfl
@[simp] theorem State.advance_speedSum (s : State) (n : Nat) : (s.advance n).speedSum = s.speedSum := rfl
@[simp] theorem State.advance_goodPackets (s : State) (n : Nat) : (s.advance n).goodPackets = s.goodPackets := rfl
@[simp] theorem State.advance_acc (s : State) (n : Nat) : (s.advance n).acc = s.acc := rfl
@[simp] theorem State.advance_result (s : State) (n : Nat) : (s.advance n).result = s.result := rfl
@[simp] theorem State.advance_offers (s : State) (n : Nat) : (s.advance n).offers = s.offers := rfl
@[simp] theorem State.advance_held (s : State) (n : Nat) : (s.advance n).held = s.held := rfl
@[simp] theorem State.advance_locals (s : State) (n : Nat) : (s.advance n).locals = { s.locals with cursor := s.locals.cursor + n } := rfl
@[simp] theorem State.advance_log (s : State) (n : Nat) : (s.advance n).log = s.log := rfl
@[simp] theorem State.advance_freeCount (s : State) (n : Nat) : (s.advance n).freeCount = s.freeCount := rfl

/-! ### setStop -/

@[simp] theorem State.setStop_variant (s : State) : (s.setStop).variant = s.variant := rfl
@[simp] theorem State.setStop_phase (s : State) : (s.setStop).phase = s.phase := rfl
@[simp] theorem State.setStop_startCount (s : State) : (s.setStop).startCount = s.startCount := rfl
@[simp] theorem State.setStop_fillCount (s : State) : (s.setStop).fillCount = s.fillCount := rfl
@[simp] theorem State.setStop_raw (s : State) : (s.setStop).raw = s.raw := rfl
@[simp] theorem State.setStop_speedRaw (s : State) : (s.setStop).speedRaw = s.speedRaw := rfl
@[simp] theorem State.setStop_speedSum (s : State) : (s.setStop).speedSum = s.speedSum := rfl
@[simp] theorem State.setStop_goodPackets (s : State) : (s.setStop).goodPackets = s.goodPackets := rfl
@[simp] theorem State.setStop_acc (s : State) : (s.setStop).acc = s.acc := rfl
@[simp] theorem State.setStop_result (s : State) : (s.setStop).result = s.result := rfl
@[simp] theorem State.setStop_offers (s : State) : (s.setStop).offers = s.offers := rfl
@[simp] theorem State.setStop_held (s : State) : (s.setStop).held = s.held := rfl
@[simp] theorem State.setStop_locals (s : State) : (s.setStop).locals = { s.locals with stop := true } := rfl
@[simp] theorem State.setStop_log (s : State) : (s.setStop).log = s.log := rfl
@[simp] theorem State.setStop_freeCount (s : State) : (s.setStop).freeCount = s.freeCount := rfl

/-! ### countPacket -/

@[simp] theorem State.countPacket_variant (s : State) (v : BitVec 16) : (s.countPacket v).variant = s.variant := rfl
@[simp] theorem State.countPacket_phase (s : State) (v : BitVec 16) : (s.countPacket v).phase = s.phase := rfl
@[simp] theorem State.countPacket_startCount (s : State) (v : BitVec 16) : (s.countPacket v).startCount = s.startCount := rfl
@[simp] theorem State.countPacket_fillCount (s : State) (v : BitVec 16) : (s.countPacket v).fillCount = s.fillCount := rfl
@[simp] theorem State.countPacket_raw (s : State) (v : BitVec 16) : (s.countPacket v).raw = s.raw := rfl
@[simp] theorem State.countPacket_speedRaw (s : State) (v : BitVec 16) : (s.countPacket v).speedRaw = s.speedRaw := rfl
@[simp] theorem State.countPacket_speedSum (s : State) (v : BitVec 16) : (s.countPacket v).speedSum = s.speedSum + v.zeroExtend 23 := rfl
@[simp] theorem State.countPacket_goodPackets (s : State) (v : BitVec 16) : (s.countPacket v).goodPackets = s.goodPackets + 1 := rfl
@[simp] theorem State.countPacket_acc (s : State) (v : BitVec 16) : (s.countPacket v).acc = s.acc := rfl
@[simp] theorem State.countPacket_result (s : State) (v : BitVec 16) : (s.countPacket v).result = s.result := rfl
@[simp] theorem State.countPacket_offers (s : State) (v : BitVec 16) : (s.countPacket v).offers = s.offers := rfl
@[simp] theorem State.countPacket_held (s : State) (v : BitVec 16) : (s.countPacket v).held = s.held := rfl
@[simp] theorem State.countPacket_locals (s : State) (v : BitVec 16) : (s.countPacket v).locals = s.locals := rfl
@[simp] theorem State.countPacket_log (s : State) (v : BitVec 16) : (s.countPacket v).log = s.log := rfl
@[simp] theorem State.countPacket_freeCount (s : State) (v : BitVec 16) : (s.countPacket v).freeCount = s.freeCount := rfl

/-! ### hold -/

@[simp] theorem State.hold_variant (s : State) (e : SourceEvent) : (s.hold e).variant = s.variant := rfl
@[simp] theorem State.hold_phase (s : State) (e : SourceEvent) : (s.hold e).phase = s.phase := rfl
@[simp] theorem State.hold_startCount (s : State) (e : SourceEvent) : (s.hold e).startCount = s.startCount := rfl
@[simp] theorem State.hold_fillCount (s : State) (e : SourceEvent) : (s.hold e).fillCount = s.fillCount := rfl
@[simp] theorem State.hold_raw (s : State) (e : SourceEvent) : (s.hold e).raw = s.raw := rfl
@[simp] theorem State.hold_speedRaw (s : State) (e : SourceEvent) : (s.hold e).speedRaw = s.speedRaw := rfl
@[simp] theorem State.hold_speedSum (s : State) (e : SourceEvent) : (s.hold e).speedSum = s.speedSum := rfl
@[simp] theorem State.hold_goodPackets (s : State) (e : SourceEvent) : (s.hold e).goodPackets = s.goodPackets := rfl
@[simp] theorem State.hold_acc (s : State) (e : SourceEvent) : (s.hold e).acc = s.acc := rfl
@[simp] theorem State.hold_result (s : State) (e : SourceEvent) : (s.hold e).result = s.result := rfl
@[simp] theorem State.hold_offers (s : State) (e : SourceEvent) : (s.hold e).offers = s.offers := rfl
@[simp] theorem State.hold_held (s : State) (e : SourceEvent) : (s.hold e).held = s.held ++ [e] := rfl
@[simp] theorem State.hold_locals (s : State) (e : SourceEvent) : (s.hold e).locals = s.locals := rfl
@[simp] theorem State.hold_log (s : State) (e : SourceEvent) : (s.hold e).log = s.log := rfl
@[simp] theorem State.hold_freeCount (s : State) (e : SourceEvent) : (s.hold e).freeCount = s.freeCount := rfl

/-! ### setCandidate -/

@[simp] theorem State.setCandidate_variant (s : State) (c : Option (BitVec 7)) : (s.setCandidate c).variant = s.variant := by cases c <;> rfl
@[simp] theorem State.setCandidate_phase (s : State) (c : Option (BitVec 7)) : (s.setCandidate c).phase = s.phase := by cases c <;> rfl
@[simp] theorem State.setCandidate_startCount (s : State) (c : Option (BitVec 7)) : (s.setCandidate c).startCount = s.startCount := by cases c <;> rfl
@[simp] theorem State.setCandidate_fillCount (s : State) (c : Option (BitVec 7)) : (s.setCandidate c).fillCount = s.fillCount := by cases c <;> rfl
@[simp] theorem State.setCandidate_raw (s : State) (c : Option (BitVec 7)) : (s.setCandidate c).raw = s.raw := by cases c <;> rfl
@[simp] theorem State.setCandidate_speedRaw (s : State) (c : Option (BitVec 7)) : (s.setCandidate c).speedRaw = s.speedRaw := by cases c <;> rfl
@[simp] theorem State.setCandidate_speedSum (s : State) (c : Option (BitVec 7)) : (s.setCandidate c).speedSum = s.speedSum := by cases c <;> rfl
@[simp] theorem State.setCandidate_goodPackets (s : State) (c : Option (BitVec 7)) : (s.setCandidate c).goodPackets = s.goodPackets := by cases c <;> rfl
@[simp] theorem State.setCandidate_acc (s : State) (c : Option (BitVec 7)) : (s.setCandidate c).acc = s.acc := by cases c <;> rfl
@[simp] theorem State.setCandidate_result (s : State) (c : Option (BitVec 7)) : (s.setCandidate c).result = s.result := by cases c <;> rfl
@[simp] theorem State.setCandidate_offers (s : State) (c : Option (BitVec 7)) : (s.setCandidate c).offers = s.offers := by cases c <;> rfl
@[simp] theorem State.setCandidate_held (s : State) (c : Option (BitVec 7)) : (s.setCandidate c).held = s.held := by cases c <;> rfl
@[simp] theorem State.setCandidate_log (s : State) (c : Option (BitVec 7)) : (s.setCandidate c).log = s.log := by cases c <;> rfl
@[simp] theorem State.setCandidate_freeCount (s : State) (c : Option (BitVec 7)) : (s.setCandidate c).freeCount = s.freeCount := by cases c <;> rfl
@[simp] theorem State.setCandidate_cursor (s : State) (c : Option (BitVec 7)) : (s.setCandidate c).locals.cursor = s.locals.cursor := by
  cases c <;> rfl
@[simp] theorem State.setCandidate_stop (s : State) (c : Option (BitVec 7)) : (s.setCandidate c).locals.stop = s.locals.stop := by
  cases c <;> rfl

/-! ### setPremature -/

@[simp] theorem State.setPremature_variant (s : State) (c : Option Nat) : (s.setPremature c).variant = s.variant := by cases c <;> rfl
@[simp] theorem State.setPremature_phase (s : State) (c : Option Nat) : (s.setPremature c).phase = s.phase := by cases c <;> rfl
@[simp] theorem State.setPremature_startCount (s : State) (c : Option Nat) : (s.setPremature c).startCount = s.startCount := by cases c <;> rfl
@[simp] theorem State.setPremature_fillCount (s : State) (c : Option Nat) : (s.setPremature c).fillCount = s.fillCount := by cases c <;> rfl
@[simp] theorem State.setPremature_raw (s : State) (c : Option Nat) : (s.setPremature c).raw = s.raw := by cases c <;> rfl
@[simp] theorem State.setPremature_speedRaw (s : State) (c : Option Nat) : (s.setPremature c).speedRaw = s.speedRaw := by cases c <;> rfl
@[simp] theorem State.setPremature_speedSum (s : State) (c : Option Nat) : (s.setPremature c).speedSum = s.speedSum := by cases c <;> rfl
@[simp] theorem State.setPremature_goodPackets (s : State) (c : Option Nat) : (s.setPremature c).goodPackets = s.goodPackets := by cases c <;> rfl
@[simp] theorem State.setPremature_acc (s : State) (c : Option Nat) : (s.setPremature c).acc = s.acc := by cases c <;> rfl
@[simp] theorem State.setPremature_result (s : State) (c : Option Nat) : (s.setPremature c).result = s.result := by cases c <;> rfl
@[simp] theorem State.setPremature_offers (s : State) (c : Option Nat) : (s.setPremature c).offers = s.offers := by cases c <;> rfl
@[simp] theorem State.setPremature_held (s : State) (c : Option Nat) : (s.setPremature c).held = s.held := by cases c <;> rfl
@[simp] theorem State.setPremature_log (s : State) (c : Option Nat) : (s.setPremature c).log = s.log := by cases c <;> rfl
@[simp] theorem State.setPremature_freeCount (s : State) (c : Option Nat) : (s.setPremature c).freeCount = s.freeCount := by cases c <;> rfl
@[simp] theorem State.setPremature_cursor (s : State) (c : Option Nat) : (s.setPremature c).locals.cursor = s.locals.cursor := by
  cases c <;> rfl
@[simp] theorem State.setPremature_stop (s : State) (c : Option Nat) : (s.setPremature c).locals.stop = s.locals.stop := by
  cases c <;> rfl

end Sys2Proof.Machine
end

