-- ==== Sys2Proof/Laws/Ops.lean ====
section
/-! SUPPORT. For each shared operation, once, everything it can do: when it answers, what the state is. -/

namespace Sys2Proof.Machine

theorem except_bind_ok {α β : Type} {x : Except Fault α} {f : α → Except Fault β} {b : β} :
    (x >>= f) = .ok b ↔ ∃ a, x = .ok a ∧ f a = .ok b := by
  cases x <;> simp [bind, Except.bind]

theorem answer_next {x : Except Fault State} {t : State} : answer x = .next t ↔ x = .ok t := by
  cases x <;> simp [answer]

theorem answer_ne_refused {x : Except Fault State} {r : Refusal} : answer x ≠ .refused r := by
  cases x <;> simp [answer]

/-! ### Raw buffer -/

/-- A read answers exactly the byte that is there, inside the buffer. -/
theorem State.rawRead_ok {s : State} {j : Nat} {b : Byte} :
    s.rawRead j = .ok b ↔ j < s.rawLen ∧ Memory.read s.raw j = some b := by
  unfold State.rawRead
  split
  · cases Memory.read s.raw j <;> simp_all
  · simp_all

theorem State.rawRead_congr {s t : State} (hv : t.variant = s.variant) (hr : t.raw = s.raw) (j : Nat) :
    t.rawRead j = s.rawRead j := by
  unfold State.rawRead State.rawLen
  rw [hv, hr]

theorem State.rawRead2_ok {s : State} {j : Nat} {v : BitVec 16} :
    s.rawRead2 j = .ok v ↔ ∃ lo hi, s.rawRead j = .ok lo ∧ s.rawRead (j + 1) = .ok hi ∧ v = hi ++ lo := by
  simp only [State.rawRead2, except_bind_ok, Operands.le16, pure, Except.pure, Except.ok.injEq]
  constructor
  · rintro ⟨lo, h1, hi, h2, h3⟩; exact ⟨lo, hi, h1, h2, h3.symm⟩
  · rintro ⟨lo, hi, h1, h2, h3⟩; exact ⟨lo, h1, hi, h2, h3.symm⟩

/-- A store answers exactly inside the buffer, and changes that byte and the event log. -/
theorem State.rawWrite_ok {s t : State} {j : Nat} {b : Byte} :
    s.rawWrite j b = .ok t ↔
      j < s.rawLen ∧ t = { s with raw := Memory.write s.raw j b, log := .store j b :: s.log } := by
  unfold State.rawWrite
  split <;> simp_all [eq_comm]

theorem State.sampleAt_ok {s : State} {j : Nat} {rec : Slot} :
    s.sampleAt j = .ok rec ↔ ∃ b0 b1 b2 b3, s.rawRead j = .ok b0 ∧ s.rawRead (j + 1) = .ok b1 ∧
      s.rawRead (j + 2) = .ok b2 ∧ s.rawRead (j + 3) = .ok b3 ∧ rec = Operands.sample b0 b1 b2 b3 := by
  simp only [State.sampleAt, except_bind_ok, pure, Except.pure, Except.ok.injEq]
  constructor
  · rintro ⟨b0, h0, b1, h1, b2, h2, b3, h3, h⟩; exact ⟨b0, b1, b2, b3, h0, h1, h2, h3, h.symm⟩
  · rintro ⟨b0, b1, b2, b3, h0, h1, h2, h3, h⟩; exact ⟨b0, h0, b1, h1, b2, h2, b3, h3, h.symm⟩

theorem State.sampleAt_congr {s t : State} (hv : t.variant = s.variant) (hr : t.raw = s.raw) (j : Nat) :
    t.sampleAt j = s.sampleAt j := by
  simp only [State.sampleAt, State.rawRead_congr hv hr]

/-! ### Slots -/

/-- A slot write answers exactly for the angles that exist, and changes that slot and the event log. -/
theorem State.slotWrite_ok {s t : State} {a : Nat} {rec : Slot} :
    s.slotWrite a rec = .ok t ↔
      ∃ h : a < 360, t = { s with acc := s.acc.set a rec h, log := .slot a rec :: s.log } := by
  unfold State.slotWrite
  split <;> simp_all [eq_comm]

/-- What decoding into slots leaves alone: every field but the slots and the event log. -/
def State.slotsOnly (s t : State) : Prop := ∃ acc log, t = { s with acc := acc, log := log }

theorem State.slotsOnly_refl (s : State) : s.slotsOnly s := ⟨s.acc, s.log, rfl⟩

theorem State.slotsOnly.trans {s t u : State} (h : s.slotsOnly t) (h' : t.slotsOnly u) : s.slotsOnly u := by
  obtain ⟨_, _, rfl⟩ := h
  obtain ⟨_, _, rfl⟩ := h'
  exact ⟨_, _, rfl⟩

theorem State.slotWrite_slotsOnly {s t : State} {a : Nat} {rec : Slot} (h : s.slotWrite a rec = .ok t) :
    s.slotsOnly t := by
  obtain ⟨_, rfl⟩ := State.slotWrite_ok.1 h
  exact ⟨_, _, rfl⟩

theorem foldlM_slotsOnly {α : Type} (f : State → α → Except Fault State)
    (hf : ∀ s x t, f s x = .ok t → s.slotsOnly t) (l : List α) {s t : State} (h : l.foldlM f s = .ok t) :
    s.slotsOnly t := by
  induction l generalizing s with
  | nil => cases h; exact State.slotsOnly_refl _
  | cons x l ih =>
    rw [List.foldlM_cons, except_bind_ok] at h
    obtain ⟨u, h1, h2⟩ := h
    exact (hf _ _ _ h1).trans (ih h2)

theorem State.decodeSlot_slotsOnly {s t : State} {a : Nat} (h : s.decodeSlot a = .ok t) : s.slotsOnly t := by
  obtain ⟨_, _, h⟩ := except_bind_ok.1 h
  exact State.slotWrite_slotsOnly h

theorem State.decodeBody_slotsOnly {s t : State} (h : s.decodeBody = .ok t) : s.slotsOnly t :=
  foldlM_slotsOnly _ (fun _ _ _ => State.decodeSlot_slotsOnly) _ h

theorem State.acceptSample_slotsOnly {s t : State} {i : Nat} {idx : BitVec 7} {o : BitVec 2}
    (h : s.acceptSample i idx o = .ok t) : s.slotsOnly t := by
  obtain ⟨_, _, h⟩ := except_bind_ok.1 h
  exact State.slotWrite_slotsOnly h

/-! ### Packet walk -/

/-- The scan that answers an offset answers a header byte there and none before it. -/
theorem State.firstHeader_some {s : State} {i k : Nat} {ks : List Nat} (h : s.firstHeader i ks = .ok (some k)) :
    ∃ before after, ks = before ++ k :: after ∧ s.rawRead (i + k) = .ok Config.hdr ∧
      ∀ m ∈ before, ∃ b, s.rawRead (i + m) = .ok b ∧ b ≠ Config.hdr := by
  induction ks with
  | nil => cases h
  | cons m ks ih =>
    simp only [State.firstHeader, except_bind_ok] at h
    obtain ⟨b, hb, h⟩ := h
    split at h
    · rename_i hd
      cases h
      exact ⟨[], ks, rfl, hd ▸ hb, by simp⟩
    · rename_i hd
      obtain ⟨p, q, rfl, h1, h2⟩ := ih h
      refine ⟨m :: p, q, rfl, h1, fun n hn => ?_⟩
      rcases List.mem_cons.1 hn with rfl | hn
      · exact ⟨b, hb, hd⟩
      · exact h2 n hn

/-- The scan that answers no offset has read every one of them and found no header byte. -/
theorem State.firstHeader_none {s : State} {i : Nat} {ks : List Nat} (h : s.firstHeader i ks = .ok none) :
    ∀ m ∈ ks, ∃ b, s.rawRead (i + m) = .ok b ∧ b ≠ Config.hdr := by
  induction ks with
  | nil => simp
  | cons m ks ih =>
    simp only [State.firstHeader, except_bind_ok] at h
    obtain ⟨b, hb, h⟩ := h
    split at h
    · cases h
    · rename_i hd
      intro n hn
      rcases List.mem_cons.1 hn with rfl | hn
      · exact ⟨b, hb, hd⟩
      · exact ih h n hn

theorem State.firstHeader_congr {s t : State} (hv : t.variant = s.variant) (hr : t.raw = s.raw) (i : Nat)
    (ks : List Nat) : t.firstHeader i ks = s.firstHeader i ks := by
  induction ks with
  | nil => rfl
  | cons k ks ih => simp only [State.firstHeader, State.rawRead_congr hv hr, ih]

/-- What the walk leaves alone: every field but the sum, the counter, the slots, the locals and the event log. -/
def State.walkOnly (s t : State) : Prop :=
  ∃ sum good acc loc log,
    t = { s with speedSum := sum, goodPackets := good, acc := acc, locals := loc, log := log }

theorem State.walkOnly_refl (s : State) : s.walkOnly s := ⟨_, _, _, _, _, rfl⟩

theorem State.walkOnly.trans {s t u : State} (h : s.walkOnly t) (h' : t.walkOnly u) : s.walkOnly u := by
  obtain ⟨_, _, _, _, _, rfl⟩ := h
  obtain ⟨_, _, _, _, _, rfl⟩ := h'
  exact ⟨_, _, _, _, _, rfl⟩

theorem State.slotsOnly.walkOnly {s t : State} (h : s.slotsOnly t) : s.walkOnly t := by
  obtain ⟨_, _, rfl⟩ := h
  exact ⟨_, _, _, _, _, rfl⟩

/-- Accepting a packet: one count, its speed into the sum, slots written, the cursor 22 on, `stop` set after index 89. -/
theorem State.acceptPacket_ok {s t : State} {idx : BitVec 7} (h : s.acceptPacket idx = .ok t) :
    ∃ speed u, s.rawRead2 (s.locals.cursor + 2) = .ok speed ∧ (s.countPacket speed).slotsOnly u ∧
      sampleNumbers.foldlM (fun t o => t.acceptSample s.locals.cursor idx o) (s.countPacket speed) = .ok u ∧
      t = (if idx.toNat = Config.idxMax then u.setStop else u).advance Config.pktLen := by
  obtain ⟨speed, hs, h⟩ := except_bind_ok.1 h
  obtain ⟨u, hu, h⟩ := except_bind_ok.1 h
  exact ⟨speed, u, hs, foldlM_slotsOnly _ (fun _ _ _ => State.acceptSample_slotsOnly) _ hu, hu, (Except.ok.inj h).symm⟩

theorem State.advance_walkOnly (s : State) (n : Nat) : s.walkOnly (s.advance n) := ⟨_, _, _, _, _, rfl⟩

theorem State.setStop_walkOnly (s : State) : s.walkOnly s.setStop := ⟨_, _, _, _, _, rfl⟩

theorem State.countPacket_walkOnly (s : State) (v : BitVec 16) : s.walkOnly (s.countPacket v) := ⟨_, _, _, _, _, rfl⟩

theorem State.setCandidate_walkOnly (s : State) (c : Option (BitVec 7)) : s.walkOnly (s.setCandidate c) := by
  cases c <;> exact ⟨_, _, _, _, _, rfl⟩

theorem State.setPremature_walkOnly (s : State) (k : Option Nat) : s.walkOnly (s.setPremature k) := by
  cases k <;> exact ⟨_, _, _, _, _, rfl⟩

theorem State.acceptPacket_walkOnly {s t : State} {idx : BitVec 7} (h : s.acceptPacket idx = .ok t) : s.walkOnly t := by
  obtain ⟨speed, u, -, hu, -, rfl⟩ := State.acceptPacket_ok h
  refine ((s.countPacket_walkOnly speed).trans hu.walkOnly).trans ?_
  split
  · exact u.setStop_walkOnly.trans (State.advance_walkOnly _ _)
  · exact State.advance_walkOnly _ _

/-- One iteration of the walk is one of three operations, chosen by the two tests. -/
theorem State.walkIter_ok {s t : State} (h : s.walkIter = .ok t) :
    ∃ hd x, s.rawRead s.locals.cursor = .ok hd ∧ s.rawRead (s.locals.cursor + 1) = .ok x ∧
      ((Operands.idxdec hd x = none ∧ t = (s.setCandidate none).advance 1) ∨
       (∃ idx k, Operands.idxdec hd x = some idx ∧ s.firstHeader s.locals.cursor scanOffsets = .ok (some k) ∧
         t = ((s.setCandidate (some idx)).setPremature (some k)).advance k) ∨
       (∃ idx, Operands.idxdec hd x = some idx ∧ s.firstHeader s.locals.cursor scanOffsets = .ok none ∧
         ((s.setCandidate (some idx)).setPremature none).acceptPacket idx = .ok t)) := by
  simp only [State.walkIter, except_bind_ok] at h
  obtain ⟨hd, h1, x, h2, h⟩ := h
  refine ⟨hd, x, h1, h2, ?_⟩
  split at h
  · rename_i hn
    exact .inl ⟨hn, (Except.ok.inj h).symm⟩
  · rename_i idx hi
    rw [except_bind_ok] at h
    obtain ⟨k, hk, h⟩ := h
    cases k with
    | none => exact .inr (.inr ⟨idx, hi, hk, h⟩)
    | some k => exact .inr (.inl ⟨idx, k, hi, hk, (Except.ok.inj h).symm⟩)

theorem State.walkIter_walkOnly {s t : State} (h : s.walkIter = .ok t) : s.walkOnly t := by
  obtain ⟨hd, x, -, -, ⟨-, rfl⟩ | ⟨idx, k, -, -, rfl⟩ | ⟨idx, -, -, h⟩⟩ := State.walkIter_ok h
  · exact (s.setCandidate_walkOnly _).trans (State.advance_walkOnly _ _)
  · exact ((s.setCandidate_walkOnly _).trans (State.setPremature_walkOnly _ _)).trans (State.advance_walkOnly _ _)
  · exact ((s.setCandidate_walkOnly _).trans (State.setPremature_walkOnly _ _)).trans (State.acceptPacket_walkOnly h)

/-- The loop unrolled once. -/
theorem State.walkLoop_succ (n : Nat) (s : State) :
    State.walkLoop (n + 1) s = if s.walkGoes then s.walkIter >>= State.walkLoop n else .ok s := rfl

/-- An invariant that every iteration keeps, the loop keeps. -/
theorem State.walkLoop_keeps (P : State → Prop) (hP : ∀ s t, P s → s.walkGoes = true → s.walkIter = .ok t → P t)
    {n : Nat} {s t : State} (hs : P s) (h : State.walkLoop n s = .ok t) : P t := by
  induction n generalizing s with
  | zero => cases h; exact hs
  | succ n ih =>
    rw [State.walkLoop_succ] at h
    split at h
    · rename_i hg
      obtain ⟨u, hu, h⟩ := except_bind_ok.1 h
      exact ih (hP _ _ hs hg hu) h
    · cases h; exact hs

theorem State.walkLoop_walkOnly {n : Nat} {s t : State} (h : State.walkLoop n s = .ok t) : s.walkOnly t :=
  State.walkLoop_keeps (fun u => s.walkOnly u) (fun _ _ hs _ hu => hs.trans (State.walkIter_walkOnly hu))
    s.walkOnly_refl h

/-- The walk: the loop from cursor 0, its locals discarded. -/
theorem State.walkBlock_ok {s t : State} (h : s.walkBlock = .ok t) :
    ∃ u, State.walkLoop Config.pblockLen { s with locals := Locals.init } = .ok u ∧
      t = { u with locals := Locals.init } := by
  obtain ⟨u, hu, h⟩ := except_bind_ok.1 h
  exact ⟨u, hu, (Except.ok.inj h).symm⟩

theorem State.walkBlock_walkOnly {s t : State} (h : s.walkBlock = .ok t) : s.walkOnly t := by
  obtain ⟨u, hu, rfl⟩ := State.walkBlock_ok h
  obtain ⟨_, _, _, _, _, rfl⟩ := State.walkLoop_walkOnly hu
  exact ⟨_, _, _, _, _, rfl⟩

/-! ### Fetch -/

/-- The fields of a BYTE key are what it was formed from (R80). -/
theorem byteKeyWord_fields (v : Variant) (p : Phase) (cc : BitVec 2) (b : Byte) :
    (byteKeyWord v p cc b).extractLsb' 13 2 = 0 ∧ (byteKeyWord v p cc b).extractLsb' 12 1 = v.code ∧
    (byteKeyWord v p cc b).extractLsb' 10 2 = p.code ∧ (byteKeyWord v p cc b).extractLsb' 8 2 = cc ∧
    (byteKeyWord v p cc b).extractLsb' 0 8 = b := by
  refine ⟨?_, ?_, ?_, ?_, ?_⟩ <;> ext i hi <;>
    simp only [byteKeyWord, BitVec.getElem_extractLsb', BitVec.getLsbD_append] <;>
    first
    | (rw [if_neg (by omega), if_neg (by omega), if_neg (by omega), if_neg (by omega)]; simp)
    | simp (disch := omega) [hi, Nat.add_comm]

/-- What the key of a BYTE selects, by variant and phase (R80 to R84, R193). -/
theorem decode_byteKeyWord (v : Variant) (p : Phase) (cc : BitVec 2) (b : Byte) :
    decode (.byteKey (byteKeyWord v p cc b)) =
      match v, p with
      | .legacy, .search => .ok (decodeLegacySearch cc b)
      | .legacy, .speed =>
        if cc = 0 then .ok (.lspd0 b) else if cc = 1 then .ok (.lspd1 b) else .error .badSubState
      | .legacy, .fill => .ok (.lbody b)
      | .packetized, .search =>
        if cc.extractLsb' 1 1 = 0 then .ok (decodePacketSearch (cc.extractLsb' 0 1) b) else .error .badSubState
      | .packetized, .speed => .error .packetizedSpeed
      | .packetized, .fill => .ok (.pfill b)
      | _, .idle => .error .byteWhileIdle := by
  obtain ⟨h1, h2, h3, h4, h5⟩ := byteKeyWord_fields v p cc b
  simp only [decode, decodeByteKey, h1, h2, h3, h4, h5]
  cases v <;> cases p <;> rfl

/-- The key of POLL selects it in IDLE only (R38, R190). -/
theorem decode_pollWord (v : Variant) (p : Phase) :
    decode (.event (eventWord 2 v p)) = if p = .idle then .ok (.poll v) else .error .pollWhileBusy := by
  cases v <;> cases p <;> decide

/-- The key of FAIL selects it in every phase but IDLE (R191). -/
theorem decode_failWord (v : Variant) (p : Phase) (h : p ≠ .idle) :
    decode (.event (eventWord 1 v p)) = .ok (.fail v p) := by
  cases v <;> cases p <;> first | decide | exact absurd rfl h

/-- The key of RESET selects it in every phase (R192). -/
theorem decode_resetWord (v : Variant) (p : Phase) : decode (.event (eventWord 3 v p)) = .ok (.reset v p) := by
  cases v <;> cases p <;> decide

/-- The operation runs in a state that differs from the fetching one by the event taken only. -/
theorem State.fetch_key {s t : State} {k : Key} (h : s.fetch = .key k t) :
    ∃ offers held, t = { s with offers := offers, held := held } := by
  unfold State.fetch State.takeOffer at h
  split at h
  · cases h; exact ⟨_, _, rfl⟩
  · split at h
    · cases h
    · cases h; exact ⟨_, _, rfl⟩
    · cases h; exact ⟨_, _, rfl⟩
    · split at h
      · cases h; exact ⟨_, _, rfl⟩
      · cases h
    · cases h; exact ⟨_, _, rfl⟩

/-- An event of the byte source is kept only while IDLE, and nothing but the two queues changes. -/
theorem State.fetch_kept {s t : State} (h : s.fetch = .kept t) :
    s.busy = false ∧ ∃ e rest, s.offers = .source e :: rest ∧ t = { s with offers := rest, held := s.held ++ [e] } := by
  unfold State.fetch State.takeOffer at h
  split at h
  · cases h
  · split at h
    · cases h
    · cases h
    · cases h
    · rename_i e rest ho
      split at h
      · cases h
      · rename_i hb
        cases h
        exact ⟨by simpa using hb, e, rest, ho, rfl⟩
    · cases h

end Sys2Proof.Machine
end

