-- ==== Sys2Proof/Laws/PerInstr.lean ====
section
/-! SUPPORT. Statements about every operation, one lemma per constructor of Instr. -/

namespace Sys2Proof.Laws.KeyFormat

/-- The encoder writes an operation's key in the format the opcode table gives its row (R80). -/
def Statement (i : Instr) : Prop := (encode i).format? = some i.op.format

theorem poll (v : Variant) : Statement (.poll v) := rfl
theorem fail (v : Variant) (pp : Phase) : Statement (.fail v pp) := rfl
theorem reset (v : Variant) (pp : Phase) : Statement (.reset v pp) := rfl
theorem ls0 : Statement (.ls0) := rfl
theorem ls1 : Statement (.ls1) := rfl
theorem ls2 : Statement (.ls2) := rfl
theorem ls3 : Statement (.ls3) := rfl
theorem lmiss (cc : BitVec 2) (b : Byte) : Statement (.lmiss cc b) := rfl
theorem lspd0 (b : Byte) : Statement (.lspd0 b) := rfl
theorem lspd1 (b : Byte) : Statement (.lspd1 b) := rfl
theorem lbody (b : Byte) : Statement (.lbody b) := rfl
theorem ps0 : Statement (.ps0) := rfl
theorem ps1 : Statement (.ps1) := rfl
theorem pmiss (c : BitVec 1) (b : Byte) : Statement (.pmiss c b) := rfl
theorem pfill (b : Byte) : Statement (.pfill b) := rfl
theorem idxdecA0Bf (p : BitVec 5) : Statement (.idxdecA0Bf p) := rfl
theorem idxdecC0Df (p : BitVec 5) : Statement (.idxdecC0Df p) := rfl
theorem idxdecE0Ef (p : BitVec 4) : Statement (.idxdecE0Ef p) := rfl
theorem idxdecF0F7 (p : BitVec 3) : Statement (.idxdecF0F7 p) := rfl
theorem idxdecF8F9 (p : BitVec 1) : Statement (.idxdecF8F9 p) := rfl
theorem idxdecNone (h x : Byte) : Statement (.idxdecNone h x) := rfl
theorem wskip : Statement (.wskip) := rfl
theorem wcorrupt : Statement (.wcorrupt) := rfl
theorem waccept : Statement (.waccept) := rfl
theorem sample (b0 b1 b2 b3 : Byte) : Statement (.sample b0 b1 b2 b3) := rfl
theorem range (b0 b1 : Byte) : Statement (.range b0 b1) := rfl
theorem tooclose (b1 : Byte) : Statement (.tooclose b1) := rfl
theorem noreturn (b1 : Byte) : Statement (.noreturn b1) := rfl
theorem intens (b2 b3 : Byte) : Statement (.intens b2 b3) := rfl
theorem le16 (lo hi : Byte) : Statement (.le16 lo hi) := rfl
theorem speed16 (s0 s1 : Byte) : Statement (.speed16 s0 s1) := rfl
theorem angle (idx : BitVec 7) (o : BitVec 2) : Statement (.angle idx o) := rfl
theorem ldecode : Statement (.ldecode) := rfl
theorem walk : Statement (.walk) := rfl
theorem reinit : Statement (.reinit) := rfl
theorem slotwr (a : BitVec 9) (rec : Slot) : Statement (.slotwr a rec) := rfl
theorem complete : Statement (.complete) := rfl

end Sys2Proof.Laws.KeyFormat
end

