-- ==== Sys2Proof/Tests/Slice0.lean ====
section
/-! SUPPORT. Tests: the well-formedness checks, one word of the spec's encoding per row, small steps from the spec's own
vectors (`95_test_vectors.md`), and a witness for the hypotheses of every statement that has some. -/

namespace Sys2Proof.Machine.Tests

/-! ### Well-formedness: an ill-formed term for each check -/

theorem test_wf_fail_idle : Instr.wellFormed (.fail .legacy .idle) = false := by decide
theorem test_wf_lmiss_match : Instr.wellFormed (.lmiss 2 0x00) = false := by decide
theorem test_wf_pmiss_header : Instr.wellFormed (.pmiss 0 0xFA) = false := by decide
theorem test_wf_pmiss_index : Instr.wellFormed (.pmiss 1 0xA0) = false := by decide
theorem test_wf_idxdec_none_candidate : Instr.wellFormed (.idxdecNone 0xFA 0xF9) = false := by decide
theorem test_wf_angle_index : Instr.wellFormed (.angle 90 0) = false := by decide
theorem test_wf_slotwr_angle : Instr.wellFormed (.slotwr 360 Slot.zero) = false := by decide

/-! ### Decoding: one word per row, written out from the row's pattern (R80 to R85, opcode table) -/

theorem test_decode_poll : decode (.event 0b10000) = .ok (.poll .legacy) := by decide
theorem test_decode_fail : decode (.event 0b01110) = .ok (.fail .packetized .speed) := by decide
theorem test_decode_reset : decode (.event 0b11111) = .ok (.reset .packetized .fill) := by decide
theorem test_decode_ls0 : decode (.byteKey 0b000010001011010) = .ok .ls0 := by decide
theorem test_decode_ls1 : decode (.byteKey 0b000010110100101) = .ok .ls1 := by decide
theorem test_decode_ls2 : decode (.byteKey 0b000011000000000) = .ok .ls2 := by decide
theorem test_decode_ls3 : decode (.byteKey 0b000011111000000) = .ok .ls3 := by decide
theorem test_decode_lmiss : decode (.byteKey 0b000011001011010) = .ok (.lmiss 2 0x5A) := by decide
theorem test_decode_lspd0 : decode (.byteKey 0b000100000010000) = .ok (.lspd0 0x10) := by decide
theorem test_decode_lspd1 : decode (.byteKey 0b000100100100111) = .ok (.lspd1 0x27) := by decide
theorem test_decode_lbody : decode (.byteKey 0b000111010101011) = .ok (.lbody 0xAB) := by decide
theorem test_decode_ps0 : decode (.byteKey 0b001010011111010) = .ok .ps0 := by decide
theorem test_decode_ps1 : decode (.byteKey 0b001010110100000) = .ok .ps1 := by decide
theorem test_decode_pmiss : decode (.byteKey 0b001010110100001) = .ok (.pmiss 1 0xA1) := by decide
theorem test_decode_pfill : decode (.byteKey 0b001110100101100) = .ok (.pfill 0x2C) := by decide
theorem test_decode_idxdec_a0_bf : decode (.walk1 0b1111101010110011) = .ok (.idxdecA0Bf 19) := by decide
theorem test_decode_idxdec_c0_df : decode (.walk1 0b1111101011000000) = .ok (.idxdecC0Df 0) := by decide
theorem test_decode_idxdec_e0_ef : decode (.walk1 0b1111101011101111) = .ok (.idxdecE0Ef 15) := by decide
theorem test_decode_idxdec_f0_f7 : decode (.walk1 0b1111101011110101) = .ok (.idxdecF0F7 5) := by decide
theorem test_decode_idxdec_f8_f9 : decode (.walk1 0b1111101011111001) = .ok (.idxdecF8F9 1) := by decide
theorem test_decode_idxdec_none_above : decode (.walk1 0b1111101011111010) = .ok (.idxdecNone 0xFA 0xFA) := by decide
theorem test_decode_idxdec_none_below : decode (.walk1 0b1111101010011111) = .ok (.idxdecNone 0xFA 0x9F) := by decide
theorem test_decode_wskip : decode (.walk2 0b01) = .ok .wskip := by decide
theorem test_decode_wcorrupt : decode (.walk2 0b11) = .ok .wcorrupt := by decide
theorem test_decode_waccept : decode (.walk2 0b10) = .ok .waccept := by decide
theorem test_decode_sample :
    decode (.sample32 .sample 0x123443E8) = .ok (.sample 0xE8 0x43 0x34 0x12) := by decide
theorem test_decode_range : decode (.sample32 .range 0x123443E8) = .ok (.range 0xE8 0x43) := by decide
theorem test_decode_tooclose : decode (.sample32 .tooclose 0x123443E8) = .ok (.tooclose 0x43) := by decide
theorem test_decode_noreturn : decode (.sample32 .noreturn 0x123443E8) = .ok (.noreturn 0x43) := by decide
theorem test_decode_intens : decode (.sample32 .intens 0x123443E8) = .ok (.intens 0x34 0x12) := by decide
theorem test_decode_le16 : decode (.pair16 .le16 0b0001100100000000) = .ok (.le16 0x00 0x19) := by decide
theorem test_decode_speed16 : decode (.pair16 .speed16 0b0001100100000000) = .ok (.speed16 0x00 0x19) := by decide
theorem test_decode_angle : decode (.angle9 0b101100111) = .ok (.angle 89 3) := by decide
theorem test_decode_ldecode : decode (.subop .ldecode) = .ok .ldecode := by decide
theorem test_decode_walk : decode (.subop .walk) = .ok .walk := by decide
theorem test_decode_reinit : decode (.subop .reinit) = .ok .reinit := by decide
theorem test_decode_slotwr : decode (.subop (.slotwr 78 Slot.zero)) = .ok (.slotwr 78 Slot.zero) := by decide
theorem test_decode_complete : decode (.subop .complete) = .ok .complete := by decide
theorem test_decode_poll_busy : decode (.event 0b10001) = .error .pollWhileBusy := by decide
theorem test_decode_fail_idle : decode (.event 0b01000) = .error .failWhileIdle := by decide
theorem test_decode_byte_idle : decode (.byteKey 0b000000001011010) = .error .byteWhileIdle := by decide
theorem test_decode_packetized_speed : decode (.byteKey 0b001100000000000) = .error .packetizedSpeed := by decide
theorem test_decode_table_word_ls3 : decodeTableWord 16 0b000011111000000 = some .ls3 := by decide
theorem test_decode_table_word_idxdec : decodeTableWord 16 0xFAF9 = some (.idxdecF8F9 1) := by decide
theorem test_decode_table_word_reset : decodeTableWord 8 0b11000 = some (.reset .legacy .idle) := by decide

/-! ### Steps on small states -/

/-- A searching unit of a variant, nothing accumulated: the state right after the first POLL. -/
def searching (v : Variant) : State := { State.reset.startPoll with variant := v }

/-- A filling unit of a variant at an offset. -/
def filling (v : Variant) (fc : BitVec 11) (raw : Memory) : State :=
  { searching v with phase := .fill, fillCount := fc, raw := raw }

/-- What a test looks at in a next state; `none` when the operation stops. -/
def see {α : Type} (o : Answer) (f : State → α) : Option α :=
  match o with
  | .next t => some (f t)
  | _ => none

/-- `95_test_vectors.md` H3. -/
theorem test_poll_h3 : see (exec (.poll .legacy) State.reset) (fun t => (t.phase, t.busy)) = some (.search, true) := by
  decide

/-- H4. -/
theorem test_poll_h4 : step { searching .legacy with offers := [.poll] } = .refused .pollWhileBusy := rfl

/-- H2: held. -/
theorem test_fail_h2 :
    see (step { State.reset with offers := [.source .fail] }) (fun t => (t.result, t.held)) = some (.none, [.fail]) := by
  decide

/-- H6. -/
theorem test_fail_h6 :
    see (exec (.fail .legacy .search) { searching .legacy with startCount := 3 })
      (fun t => (t.phase, t.startCount, t.isFailed)) = some (.idle, 0, true) := by
  decide

/-- H7. -/
theorem test_reset_h7 :
    see (exec (.reset .packetized .fill) (filling .packetized 9 [])) (fun t => (t.phase, t.startCount, t.result, t.variant))
      = some (.idle, 0, .none, .packetized) := by
  decide

/-- L5: a mismatch at count 3 with `5A` is discarded. -/
theorem test_lmiss_l5 :
    see (step ({ searching .legacy with startCount := 3 }.feedBytes [0x5A])) (fun t => (t.phase, t.startCount))
      = some (.search, 0) := by
  decide

/-- L1: the fourth byte. -/
theorem test_ls3_l1 :
    see (step ({ searching .legacy with startCount := 3 }.feedBytes [0xC0])) (fun t => (t.phase, t.startCount, t.fillCount))
      = some (.speed, 0, 0) := by
  decide

/-- B1 and B2: speed bytes `10 27`. -/
theorem test_lspd_b2 :
    see (Sys2Proof.core.run 2 ({ searching .legacy with phase := .speed }.feedBytes [0x10, 0x27]))
      (fun t => (t.speedRaw, t.phase)) = some (10000, .fill) := by
  decide

/-- B4. -/
theorem test_lbody_b4 :
    see (exec (.lbody 0xAB) (filling .legacy 7 [])) (fun t => (Memory.read t.raw 7, t.fillCount)) = some (some 0xAB, 8) := by
  decide

/-- Q1. -/
theorem test_ps_q1 :
    see (Sys2Proof.core.run 2 ((searching .packetized).feedBytes [0xFA, 0xA0]))
      (fun t => (t.phase, t.fillCount, t.raw)) = some (.fill, 2, [(0, 0xFA), (1, 0xA0)]) := by
  decide

/-- Q5: the second `FA` is discarded. -/
theorem test_pmiss_q5 :
    see (Sys2Proof.core.run 3 ((searching .packetized).feedBytes [0xFA, 0xFA, 0xA0]))
      (fun t => (t.phase, t.startCount)) = some (.search, 0) := by
  decide

/-- Q10. -/
theorem test_pfill_q10 :
    see (exec (.pfill 0) (filling .packetized 1978 [])) (fun t => (t.phase, t.fillCount)) = some (.fill, 1979) := by
  decide

/-- The packet `PK(p, 6400, 100, 1)` of the vectors' notation, with index byte `x`, at offset 0. -/
def packetAtZero (x : Byte) : Memory :=
  [(0, 0xFA), (1, x), (2, 0x00), (3, 0x19), (4, 0x64), (5, 0), (6, 1), (7, 0), (8, 0x64), (9, 0), (10, 1), (11, 0),
   (12, 0x64), (13, 0), (14, 1), (15, 0), (16, 0x64), (17, 0), (18, 1), (19, 0), (20, 0), (21, 0)]

/-- W2, first packet. -/
theorem test_waccept_w2 :
    see (exec .waccept (filling .packetized 1979 (packetAtZero 0xA0)))
      (fun t => (t.speedSum, t.goodPackets, t.locals.cursor, t.acc[3], t.acc[4])) =
    some (6400, 1, 22, ⟨100, false, false, 1⟩, ⟨0, false, false, 0⟩) := by
  decide +kernel

/-- R157: index 89 ends the walk, here at once. -/
theorem test_walk_stops_at_89 :
    see (exec .walk (filling .packetized 1979 (packetAtZero 0xF9)))
      (fun t => (t.goodPackets, t.acc[356], t.acc[359], t.locals)) =
    some (1, ⟨100, false, false, 1⟩, ⟨100, false, false, 1⟩, Locals.init) := by
  decide +kernel

/-- W3: a header byte at offset 9 moves the cursor there. -/
theorem test_wcorrupt_w3 :
    (match ({ searching .packetized with raw := Memory.write (packetAtZero 0xA0) 9 0xFA } : State).walkIter with
     | .ok t => some (t.locals.cursor, t.goodPackets)
     | .error _ => none) = some (9, 0) := by
  decide

/-- F6. -/
theorem test_sample_f6 : Operands.sample 0xE8 0xC3 0x34 0x12 = ⟨1000, true, true, 4660⟩ := by decide

/-- F21. -/
theorem test_speed16_f21 : Operands.speed16 0x00 0x19 = 6400 := by decide

/-- F32 and F35: no candidates. -/
theorem test_idxdec_f35 : Operands.idxdec 0xFA 0x9F = none ∧ Operands.idxdec 0xFA 0x00 = none := by decide

/-- `ANGLE(19, 2) = 78`. -/
theorem test_angle_78 : Operands.angle 19 2 = 78 := by decide

/-- The vector of section 2.6. -/
theorem test_slotwr_78 :
    see (exec (.slotwr 78 ⟨1000, true, false, 4660⟩) State.reset) (fun t => (t.acc[78], t.acc[79])) =
    some (⟨1000, true, false, 4660⟩, Slot.zero) := by
  decide +kernel

/-- A6: the division by 64 is exact. -/
theorem test_views_a6 : Views.rpmOf 1 1 = 1 / 64 ∧ Views.scanTimeOf 1 1 = 3840 := by
  constructor <;> decide +kernel

/-- A4. -/
theorem test_views_a4 : Views.rpmOf 1676032 87 = 26188 / 87 ∧ Views.scanTimeOf 1676032 87 = 1305 / 6547 := by
  constructor <;> decide +kernel

/-- The geometry of R8: 359° and 150 mm in the Packetized variant. -/
theorem test_geometry : (Config.geometry .packetized).angleMax = 359 / 180 ∧ (Config.geometry .packetized).rangeMin = 3 / 20 := by
  constructor <;> decide +kernel

/-- A bare table word runs as the very next step. -/
theorem test_fetch_word_idxdec :
    see (step (State.reset.withFetchWord 16 0xFAB3)) (fun t => (t.locals.candidate, t.locals.idx)) = some (true, 19) := by
  decide

/-- A two-byte word with bit 15 set is no BYTEKEY word: 84 5A is a pair that is no candidate (R85). -/
theorem test_fetch_word_bit15 : decodeTableWord 16 0x845A = some (.idxdecNone 0x84 0x5A) := by decide

/-- A bare table word of a byte operation brings its variant, phase and count with it. -/
theorem test_fetch_word_ps1 :
    see (step (State.reset.withFetchWord 16 0b001010110100000)) (fun t => (t.variant, t.phase, t.fillCount)) =
    some (.packetized, .fill, 2) := by
  decide

/-! ### Witnesses: states and operands that meet the hypotheses of the statements -/

/-- The raw buffer with the bytes `f` at the offsets below `n`. -/
def filled (n : Nat) (f : Nat → Byte) : Memory := (List.range' 0 n).map (fun j => (j, f j))

theorem read_filledFrom (f : Nat → Byte) (n a k : Nat) (h : a ≤ k) (h' : k < a + n) :
    Memory.read ((List.range' a n).map (fun j => (j, f j))) k = some (f k) := by
  induction n generalizing a with
  | zero => omega
  | succ n ih =>
    rw [List.range'_succ, List.map_cons]
    by_cases hk : k = a
    · simp [Memory.read, hk]
    · have h1 : ¬ k < a := by omega
      simp only [Memory.read, hk, h1, if_false]
      exact ih (a + 1) (by omega) (by omega)

theorem read_filled (f : Nat → Byte) (n k : Nat) (h : k < n) : Memory.read (filled n f) k = some (f k) :=
  read_filledFrom f n 0 k (Nat.zero_le _) (by omega)

/-- A block of 90 well-formed packets with every other byte zero. -/
def revolution (j : Nat) : Byte :=
  if j % 22 = 0 then 0xFA else if j % 22 = 1 then BitVec.ofNat 8 (160 + j / 22) else 0

/-- A packet with a spurious header byte at its last offset, and a header byte at its end. -/
def spurious (j : Nat) : Byte :=
  if j = 0 ∨ j = 21 ∨ j = 22 then 0xFA else if j = 1 then 0xA0 else 0

theorem witness_DecodeOfEncodeIsIdentity : Instr.wellFormed (.lmiss 0 0x00) = true := by decide

theorem witness_DecodedOperationsAreWellFormed : decode (.angle9 0b101100111) = .ok (.angle 89 3) := by decide

theorem witness_StepRunsTheSelectedOperation :
    ({ State.reset with offers := [.poll] } : State).fetch = .key (.event 0b10000) State.reset ∧
    decode (.event 0b10000) = .ok (.poll .legacy) := ⟨rfl, by decide⟩

theorem witness_OffersAreTakenHeldOrRefused :
    (State.reset.phase = .idle ∧ State.reset.held = []) ∧
    ((searching .packetized).phase ≠ .idle ∧ (searching .packetized).held = [] ∧
      ¬((searching .packetized).variant = .packetized ∧ (searching .packetized).phase = .speed)) := by
  decide

theorem witness_HeldEventsComeFirst :
    (searching .legacy).phase ≠ .idle ∧ ({ searching .legacy with held := [.fail] } : State).held = [.fail] ∧
    decode (State.sourceKey { searching .legacy with held := [.fail] } .fail) = .ok (.fail .legacy .search) := by
  decide

theorem witness_UnitWaitsWhenNothingIsOffered :
    (State.reset.offers = [] ∧ State.reset.phase = .idle) ∧
    ((searching .legacy).offers = [] ∧ (searching .legacy).phase ≠ .idle ∧ (searching .legacy).held = []) := by
  decide

theorem witness_PollStartsAPollOrIsRefused : State.reset.phase = .idle ∧ (searching .legacy).phase ≠ .idle := by decide

theorem witness_FailRaisesTransportFailure : (filling .packetized 1979 []).phase ≠ .idle ∧ State.reset.phase = .idle := by
  decide

theorem witness_OnlyFailBringsAFailure :
    exec (.fail .legacy .search) (searching .legacy) = .next (searching .legacy).raiseTransportFailure ∧
    (searching .legacy).raiseTransportFailure.result = .failure .transportFailure := ⟨rfl, rfl⟩

theorem witness_PollEndsInOneOfThreeWays :
    ((searching .legacy).feed [.fail]).eventsOnly ∧ ((searching .legacy).feed [.fail]).busy = true ∧
    step ((searching .legacy).feed [.fail]) = .next ((searching .legacy).feed []).raiseTransportFailure ∧
    ((searching .legacy).feed []).raiseTransportFailure.busy = false := by
  refine ⟨fun k => ?_, rfl, rfl, rfl⟩
  simp [State.feed]

theorem witness_PollEndsInOneOfThreeWays_reset :
    ({ searching .legacy with offers := [.reset] } : State).eventsOnly ∧
    ({ searching .legacy with offers := [.reset] } : State).busy = true ∧
    step { searching .legacy with offers := [.reset] } = .next (searching .legacy).resetUnit ∧
    (searching .legacy).resetUnit.busy = false := by
  refine ⟨fun k => ?_, rfl, rfl, rfl⟩
  simp

theorem witness_LegacyMatcherTransition :
    ({ searching .legacy with startCount := 3, offers := [.source (.byte 0xC0)] } : State).variant = .legacy ∧
    ({ searching .legacy with startCount := 3, offers := [.source (.byte 0xC0)] } : State).phase = .search ∧
    ({ searching .legacy with startCount := 3, offers := [.source (.byte 0xC0)] } : State).held = [] ∧
    ({ searching .legacy with startCount := 3, offers := [.source (.byte 0xC0)] } : State).offers =
      [.source (.byte 0xC0)] := by
  decide

theorem witness_LegacyMatcherReusesNoPrefix :
    (searching .legacy).variant = .legacy ∧ (searching .legacy).phase = .search ∧ (searching .legacy).startCount = 0 := by
  decide

theorem witness_SpeedBytesLoadLittleEndian :
    exec (.lspd0 0x10) State.reset = .next { State.reset with speedRaw := 0x0010, fillCount := 1 } ∧
    exec (.lspd1 0x27) { State.reset with speedRaw := 0x0010, fillCount := 1 } =
      .next { State.reset with speedRaw := 0x2710, fillCount := 0, phase := .fill } := ⟨rfl, rfl⟩

theorem witness_BodyByteIsStored :
    (filling .legacy 1438 []).variant = .legacy ∧ (filling .legacy 1438 []).fillCount.toNat < 1439 := by decide

theorem witness_LastBodyByteCompletesThePoll :
    (filling .legacy 1439 (filled 1439 revolution)).variant = .legacy ∧
    (filling .legacy 1439 (filled 1439 revolution)).fillCount = 1439 ∧
    (filling .legacy 1439 (filled 1439 revolution)).holdsBytes 1439 revolution :=
  ⟨rfl, rfl, fun j hj => read_filled revolution 1439 j hj⟩

theorem witness_BodyDecodesByPosition :
    (filling .legacy 1439 (filled 1440 revolution)).holdsBytes 1440 revolution :=
  fun j hj => read_filled revolution 1440 j hj

theorem witness_LegacyFrameYieldsItsScan :
    (searching .legacy).variant = .legacy ∧ (searching .legacy).phase = .search ∧ (searching .legacy).startCount = 0 := by
  decide

theorem witness_PacketMatcherTransition :
    ({ searching .packetized with startCount := 1, offers := [.source (.byte 0xA0)] } : State).variant = .packetized ∧
    ({ searching .packetized with startCount := 1, offers := [.source (.byte 0xA0)] } : State).phase = .search ∧
    ({ searching .packetized with startCount := 1, offers := [.source (.byte 0xA0)] } : State).startCount.toNat ≤ 1 ∧
    ({ searching .packetized with startCount := 1, offers := [.source (.byte 0xA0)] } : State).held = [] := by
  decide

theorem witness_BlockByteIsStored :
    (filling .packetized 1978 []).variant = .packetized ∧ (filling .packetized 1978 []).fillCount.toNat < 1979 := by decide

theorem witness_LastBlockByteWalksAndCompletes :
    (filling .packetized 1979 (filled 1979 revolution)).variant = .packetized ∧
    (filling .packetized 1979 (filled 1979 revolution)).fillCount = 1979 ∧
    (filling .packetized 1979 (filled 1979 revolution)).writtenBelow 1979 :=
  ⟨rfl, rfl, fun j hj => ⟨_, read_filled revolution 1979 j hj⟩⟩

/-- The whole block of `f`, in a packetized unit whose walk stands at a cursor with a packet index. -/
def walking (f : Nat → Byte) (cursor : Nat) (idx : BitVec 7) : State :=
  { filling .packetized 1979 (filled 1980 f) with
    locals := { Locals.init with cursor := cursor, idx := idx } }

theorem walking_holds (f : Nat → Byte) (cursor : Nat) (idx : BitVec 7) : (walking f cursor idx).holdsBytes 1980 f :=
  fun j hj => read_filled f 1980 j hj

theorem witness_AcceptUsesThePacket :
    (walking revolution 1958 89).locals.cursor = 1958 ∧ (walking revolution 1958 89).locals.idx.toNat = 89 ∧
    1958 + 20 ≤ Config.rawLen (walking revolution 1958 89).variant ∧
    ∀ j, 1958 + 2 ≤ j → j < 1958 + 20 → Memory.read (walking revolution 1958 89).raw j = some (revolution j) :=
  ⟨rfl, rfl, by decide, fun j _ h => walking_holds _ _ _ j (by omega)⟩

theorem witness_WalkSelectsByItsKey :
    (walking revolution 1958 0).variant = .packetized ∧ (walking revolution 1958 0).locals.cursor + 22 ≤ 1980 ∧
    (walking revolution 1958 0).holdsBytes 1980 revolution :=
  ⟨rfl, by decide, walking_holds _ _ _⟩

theorem witness_EveryIterationMovesOn :
    ({ searching .packetized with raw := [(0, 0), (1, 0)] } : State).walkIter =
      .ok (({ searching .packetized with raw := [(0, 0), (1, 0)] } : State).advance 1) := rfl

theorem witness_WalkEndsWithin1959Iterations :
    State.walkLoop 1959 ((searching .packetized).setStop) = .ok (searching .packetized).setStop := rfl

theorem witness_AtMostNinetyPacketsAccepted :
    (filling .packetized 1979 (packetAtZero 0xF9)).speedSum = 0 ∧
    (filling .packetized 1979 (packetAtZero 0xF9)).goodPackets = 0 ∧
    (see (exec .walk (filling .packetized 1979 (packetAtZero 0xF9))) (fun _ => true)) = some true := by
  decide +kernel

theorem witness_WalkCompletesOnEveryBlock :
    (walking revolution 0 0).variant = .packetized ∧ (walking revolution 0 0).writtenBelow 1980 :=
  ⟨rfl, fun j hj => ⟨_, walking_holds _ _ _ j hj⟩⟩

theorem witness_WellFormedRevolutionIsDecoded :
    (walking revolution 0 0).variant = .packetized ∧ (walking revolution 0 0).speedSum = 0 ∧
    (walking revolution 0 0).goodPackets = 0 ∧ (walking revolution 0 0).holdsBytes 1980 revolution ∧
    ∀ p < 90, revolution (22 * p) = 0xFA ∧ (revolution (22 * p + 1)).toNat = 160 + p ∧
      ∀ k, 2 ≤ k → k ≤ 21 → revolution (22 * p + k) ≠ 0xFA := by
  refine ⟨rfl, rfl, rfl, walking_holds _ _ _, fun p hp => ⟨?_, ?_, fun k h1 h2 => ?_⟩⟩
  · simp [revolution]
  · have h1 : (22 * p + 1) % 22 = 1 := by omega
    have h2 : (22 * p + 1) / 22 = p := by omega
    simp only [revolution, h1, h2]
    simp
    omega
  · have h3 : (22 * p + k) % 22 = k := by omega
    have h4 : k ≠ 0 := by omega
    have h5 : k ≠ 1 := by omega
    simp [revolution, h3, h4, h5]

theorem witness_SpuriousHeaderResynchronises :
    (walking spurious 0 0).variant = .packetized ∧ (walking spurious 0 0).holdsBytes 1980 spurious ∧
    (walking spurious 0 0).locals.cursor = 0 ∧ (walking spurious 0 0).locals.stop = false ∧
    spurious 0 = 0xFA ∧ 160 ≤ (spurious 1).toNat ∧ (spurious 1).toNat ≤ 249 ∧ spurious 21 = 0xFA ∧
    (∀ m, 2 ≤ m → m ≤ 21 → m ≠ 21 → spurious m ≠ 0xFA) ∧ spurious 22 = 0xFA := by
  refine ⟨rfl, walking_holds _ _ _, rfl, rfl, by decide, by decide, by decide, by decide, fun m h1 h2 h3 => ?_, by decide⟩
  have h4 : ¬ (m = 0 ∨ m = 21 ∨ m = 22) := by omega
  have h5 : m ≠ 1 := by omega
  simp [spurious, h4, h5]

theorem witness_WalkStopsAfterIndex89 :
    (walking revolution 1958 89).locals.idx = 89 ∧
    (see (exec .waccept (walking revolution 1958 89)) (fun t => t.locals.stop)) = some true ∧
    (searching .packetized).setStop.locals.stop = true := by
  decide +kernel

theorem witness_AngleIsABijectionOntoTheSlots : (89 : BitVec 7).toNat ≤ 89 ∧ 359 < 360 := by decide

theorem witness_SlotWriteOverwritesOneSlot : (359 : BitVec 9).toNat < 360 ∧ 360 ≤ (360 : BitVec 9).toNat := by decide

theorem witness_CompleteReturnsTheScan :
    (searching .legacy).variant = .legacy ∧ (searching .packetized).variant = .packetized := by decide

theorem witness_PacketizedTimingViews :
    ({ searching .packetized with speedSum := 6400, goodPackets := 1 } : State).scanRecord.telemetry =
      .packetized 6400 1 := rfl

theorem witness_LegacyTimingAndSampleViews :
    ({ searching .legacy with speedRaw := 10000 } : State).scanRecord.telemetry = .legacy 10000 ∧
    (searching .packetized).scanRecord.telemetry = .packetized 0 0 := ⟨rfl, rfl⟩

/-- A searching unit whose environment offers events only has the invariant. -/
theorem searching_inv (v : Variant) (offers : List Offer) (h : ∀ k, Offer.direct k ∉ offers) :
    Inv { searching v with offers := offers } := by
  constructor <;> simp [searching, State.reset, State.busy, State.eventsOnly, Memory.wf]
  exact h

theorem witness_EveryStepKeepsTheInvariant :
    Inv { searching .legacy with offers := [.source (.byte 0x5A)] } ∧
    step { searching .legacy with offers := [.source (.byte 0x5A)] } = .next { searching .legacy with startCount := 1 } :=
  ⟨searching_inv _ _ (by simp), rfl⟩

theorem witness_NoStepFaults : Inv { searching .packetized with offers := [.source (.byte 0xFA)] } :=
  searching_inv _ _ (by simp)

theorem witness_OnlyPollWhileBusyIsRefused :
    Inv { searching .packetized with offers := [.poll] } ∧
    step { searching .packetized with offers := [.poll] } = .refused .pollWhileBusy :=
  ⟨searching_inv _ _ (by simp), rfl⟩

theorem witness_VariantIsFixed : exec .complete (searching .packetized) = .next (searching .packetized).finish := rfl

theorem witness_OnlyTheNamedWritersWrite :
    exec .ls0 State.reset = .next { State.reset with startCount := 1 } ∧
    Op.ls0 ∉ [Op.poll, .fail, .reset, .ls3, .lspd1, .lbody, .ps1, .pfill, .complete] ∧
    Op.ldecode ∉ [Op.poll, .fail, .reset, .ls0, .ls1, .ls2, .ls3, .lmiss, .ps0, .ps1, .pmiss] ∧
    Op.ls0 ∉ [Op.poll, .lbody, .pfill, .ldecode, .walk, .waccept, .reinit, .slotwr, .reset] :=
  ⟨rfl, by decide, by decide, by decide⟩

theorem witness_ResultDependsOnThisPollOnly :
    State.reset.variant = (searching .legacy).variant ∧
    Sys2Proof.core.run 1 (State.reset.startPoll.feed [.fail]) =
      .next (State.reset.startPoll.feed []).raiseTransportFailure := ⟨rfl, rfl⟩

/-- Two related units whose raw buffers and speed registers differ, and a step of the first. -/
theorem witness_EveryStepKeepsTwoUnitsAlike :
    SamePoll { searching .legacy with offers := [.source .fail] }
      { searching .legacy with offers := [.source .fail], raw := [(3, 7)], speedRaw := 9 } ∧
    step { searching .legacy with offers := [.source .fail] } = .next (searching .legacy).raiseTransportFailure := by
  refine ⟨?_, rfl⟩
  constructor <;> simp [searching, State.reset, State.busy, State.eventsOnly]

end Sys2Proof.Machine.Tests
end

/-! SUPPORT and proofs for `spec/00_scope.md`: the step is fetch, decode, exec (R3, R80, R194), and no operation writes
`VARIANT` (R2, R6). -/

namespace Sys2Proof.Machine

/-! ### The step, by what the fetch brings (R194) -/

/-- A fetched key that decodes runs its operation, in the state the fetch leaves. -/
theorem step_of_fetch_key {s t : State} {k : Key} {i : Instr} (hf : s.fetch = .key k t) (hd : decode k = .ok i) :
    step s = exec i t := by
  simp only [step, hf, hd]

/-! ### The operations that store a byte -/

theorem State.rawWrite_variant {s t : State} {j : Nat} {b : Byte} (h : s.rawWrite j b = .ok t) :
    t.variant = s.variant := by
  obtain ⟨-, rfl⟩ := State.rawWrite_ok.1 h
  rfl

/-- The header byte and the index byte of a block lie inside the buffer of either variant (R50). -/
theorem State.one_lt_rawLen (s : State) : 1 < s.rawLen := by
  unfold State.rawLen
  cases s.variant <;> decide

/-- PS0 completes in every state (R140). -/
theorem execPs0_eq (s : State) :
    execPs0 s = .next { s with raw := Memory.write s.raw 0 0xFA, log := .store 0 0xFA :: s.log, startCount := 1 } := by
  have h0 : 0 < s.rawLen := Nat.zero_lt_of_lt s.one_lt_rawLen
  exact answer_next.2 (except_bind_ok.2 ⟨_, State.rawWrite_ok.2 ⟨h0, rfl⟩, rfl⟩)

/-- PS1 completes in every state (R141). -/
theorem execPs1_eq (s : State) :
    execPs1 s = .next { s with
      raw := Memory.write s.raw 1 0xA0, log := .store 1 0xA0 :: s.log,
      startCount := 0, fillCount := 2, phase := .fill } :=
  answer_next.2 (except_bind_ok.2 ⟨_, State.rawWrite_ok.2 ⟨s.one_lt_rawLen, rfl⟩, rfl⟩)

/-- LBODY and PFILL have one shape: the byte is stored, and the last one also runs `f` on the full buffer and completes
the `poll()`; any other is counted (R132, R143). -/
theorem storeThenFinish_next {s t : State} {j : Nat} {b : Byte} {last : Prop} [Decidable last] {n : BitVec 11}
    {f : State → Except Fault State} :
    answer (do
      let w ← s.rawWrite j b
      if last then
        let u ← f w
        return u.finish
      else return { w with fillCount := n }) = .next t ↔
    ∃ w, s.rawWrite j b = .ok w ∧
      (last ∧ (∃ u, f w = .ok u ∧ t = u.finish) ∨ ¬last ∧ t = { w with fillCount := n }) := by
  rw [answer_next, except_bind_ok]
  refine exists_congr fun w => and_congr_right fun _ => ?_
  by_cases hl : last
  · simp [hl, except_bind_ok, pure, Except.pure, eq_comm (a := t)]
  · simp [hl, pure, Except.pure, eq_comm (a := t)]

/-- All that LBODY can do when it answers (R132). -/
theorem execLbody_next {s t : State} {b : Byte} :
    execLbody b s = .next t ↔ ∃ w, s.rawWrite s.fillCount.toNat b = .ok w ∧
      (s.fillCount = 1439 ∧ (∃ u, w.decodeBody = .ok u ∧ t = u.finish) ∨
       s.fillCount ≠ 1439 ∧ t = { w with fillCount := s.fillCount + 1 }) :=
  storeThenFinish_next

/-- All that PFILL can do when it answers (R143). -/
theorem execPfill_next {s t : State} {b : Byte} :
    execPfill b s = .next t ↔ ∃ w, s.rawWrite s.fillCount.toNat b = .ok w ∧
      (s.fillCount = 1979 ∧ (∃ u, w.walkBlock = .ok u ∧ t = u.finish) ∨
       s.fillCount ≠ 1979 ∧ t = { w with fillCount := s.fillCount + 1 }) :=
  storeThenFinish_next

/-! ### The variant (R2, R6) -/

theorem State.walkOnly.variant {s t : State} (h : s.walkOnly t) : t.variant = s.variant := by
  obtain ⟨_, _, _, _, _, rfl⟩ := h
  rfl

theorem State.slotsOnly.variant {s t : State} (h : s.slotsOnly t) : t.variant = s.variant := h.walkOnly.variant

theorem execPoll_variant {s t : State} (h : execPoll s = .next t) : t.variant = s.variant := by
  unfold execPoll at h
  split at h
  · cases h
  · cases h; exact s.startPoll_variant

theorem execFail_variant {s t : State} (h : execFail s = .next t) : t.variant = s.variant := by
  unfold execFail at h
  split at h
  · cases h; exact s.raiseTransportFailure_variant
  · cases h; exact s.hold_variant .fail

theorem execLbody_variant {s t : State} {b : Byte} (h : execLbody b s = .next t) : t.variant = s.variant := by
  obtain ⟨w, hw, ⟨-, u, hu, rfl⟩ | ⟨-, rfl⟩⟩ := execLbody_next.1 h
  · exact (State.decodeBody_slotsOnly hu).variant.trans (State.rawWrite_variant hw)
  · exact (State.rawWrite_variant hw :)

theorem execPfill_variant {s t : State} {b : Byte} (h : execPfill b s = .next t) : t.variant = s.variant := by
  obtain ⟨w, hw, ⟨-, u, hu, rfl⟩ | ⟨-, rfl⟩⟩ := execPfill_next.1 h
  · exact (State.walkBlock_walkOnly hu).variant.trans (State.rawWrite_variant hw)
  · exact (State.rawWrite_variant hw :)

/-- The operations with branches of their own go by what their computation leaves alone; every other one answers one
update of the state, which does not name the field. -/
theorem exec_variant {i : Instr} {s t : State} (h : exec i s = .next t) : t.variant = s.variant := by
  cases i with
  | poll => exact execPoll_variant h
  | fail => exact execFail_variant h
  | lbody => exact execLbody_variant h
  | pfill => exact execPfill_variant h
  | ps0 => cases (execPs0_eq s).symm.trans h; rfl
  | ps1 => cases (execPs1_eq s).symm.trans h; rfl
  | ldecode => exact (State.decodeBody_slotsOnly (answer_next.1 h)).variant
  | slotwr => exact (State.slotWrite_slotsOnly (answer_next.1 h)).variant
  | walk => exact (State.walkBlock_walkOnly (answer_next.1 h)).variant
  | waccept => exact (State.acceptPacket_walkOnly (answer_next.1 h)).variant
  | _ => cases h; rfl

/-! ### The obligations -/

/-- Settles O9: the step by its definition, the frame by `State.fetch_key`. -/
theorem stepRunsTheSelectedOperation : Obligations.StepRunsTheSelectedOperation := by
  intro s t k i hf hd
  exact ⟨step_of_fetch_key hf hd, State.fetch_key hf⟩

/-- Settles O56, by cases on the operation (`exec_variant`). -/
theorem variantIsFixed : Obligations.VariantIsFixed := by
  intro i s t h
  exact exec_variant h

end Sys2Proof.Machine

/-! SUPPORT and proofs for `spec/10_state.md`: computations that complete, the walk's loop and its bounds, the step by
what the environment brings (R38), who writes what, and the invariant of the reachable states (R43). -/

namespace Sys2Proof.Machine

/-! ### Computations that complete (R42, R58) -/

/-- A fold completes when each of its steps does, from every state that the steps before it can leave. -/
theorem foldlM_completes {α : Type} {P : State → Prop} {f : State → α → Except Fault State} {l : List α}
    (hf : ∀ s, ∀ x ∈ l, P s → ∃ t, f s x = .ok t ∧ P t) {s : State} (hs : P s) :
    ∃ t, l.foldlM f s = .ok t ∧ P t := by
  induction l generalizing s with
  | nil => exact ⟨s, rfl, hs⟩
  | cons x l ih =>
    obtain ⟨u, hu, hpu⟩ := hf s x (List.mem_cons_self ..) hs
    obtain ⟨t, ht, hpt⟩ := ih (fun s y hy => hf s y (List.mem_cons_of_mem _ hy)) hpu
    exact ⟨t, by rw [List.foldlM_cons]; exact except_bind_ok.2 ⟨u, hu, ht⟩, hpt⟩

/-- Every read below `n` completes: the offset is in the buffer and its byte is there. -/
def State.readsBelow (s : State) (n : Nat) : Prop := ∀ j < n, ∃ b, s.rawRead j = .ok b

theorem State.writtenBelow.readsBelow {s : State} {n : Nat} (h : s.writtenBelow n) (hn : n ≤ s.rawLen) :
    s.readsBelow n := by
  intro j hj
  obtain ⟨b, hb⟩ := h j hj
  exact ⟨b, State.rawRead_ok.2 ⟨by omega, hb⟩⟩

theorem State.walkOnly.raw {s t : State} (h : s.walkOnly t) : t.raw = s.raw := by
  obtain ⟨_, _, _, _, _, rfl⟩ := h
  rfl

theorem State.walkOnly.readsBelow {s t : State} (h : s.walkOnly t) {n : Nat} (hr : s.readsBelow n) :
    t.readsBelow n := by
  intro j hj
  rw [State.rawRead_congr h.variant h.raw]
  exact hr j hj

theorem State.rawRead2_completes {s : State} {n j : Nat} (hr : s.readsBelow n) (hj : j + 2 ≤ n) :
    ∃ v, s.rawRead2 j = .ok v := by
  obtain ⟨lo, hlo⟩ := hr j (by omega)
  obtain ⟨hi, hhi⟩ := hr (j + 1) (by omega)
  exact ⟨_, State.rawRead2_ok.2 ⟨lo, hi, hlo, hhi, rfl⟩⟩

theorem State.sampleAt_completes {s : State} {n j : Nat} (hr : s.readsBelow n) (hj : j + 4 ≤ n) :
    ∃ rec, s.sampleAt j = .ok rec := by
  obtain ⟨b0, h0⟩ := hr j (by omega)
  obtain ⟨b1, h1⟩ := hr (j + 1) (by omega)
  obtain ⟨b2, h2⟩ := hr (j + 2) (by omega)
  obtain ⟨b3, h3⟩ := hr (j + 3) (by omega)
  exact ⟨_, State.sampleAt_ok.2 ⟨b0, b1, b2, b3, h0, h1, h2, h3, rfl⟩⟩

/-- Writing the sample of four readable bytes to a slot that exists completes, and the bytes stay readable. -/
theorem State.writeSample_completes {s : State} {n j a : Nat} (hr : s.readsBelow n) (hj : j + 4 ≤ n) (ha : a < 360) :
    ∃ t, (s.sampleAt j >>= fun rec => s.slotWrite a rec) = .ok t ∧ t.readsBelow n := by
  obtain ⟨rec, hrec⟩ := State.sampleAt_completes hr hj
  have hw := State.slotWrite_ok (s := s) (rec := rec).2 ⟨ha, rfl⟩
  exact ⟨_, except_bind_ok.2 ⟨rec, hrec, hw⟩, (State.slotWrite_slotsOnly hw).walkOnly.readsBelow hr⟩

/-- The legacy decode completes on a stored body (R133). -/
theorem State.decodeBody_completes {s : State} (hr : s.readsBelow 1440) : ∃ t, s.decodeBody = .ok t := by
  have hslot : ∀ u : State, ∀ a ∈ List.range Config.nslot, u.readsBelow 1440 →
      ∃ v, u.decodeSlot a = .ok v ∧ v.readsBelow 1440 := by
    intro u a ha hu
    have ha : a < 360 := List.mem_range.1 ha
    exact State.writeSample_completes hu (by omega) ha
  obtain ⟨t, ht, -⟩ := foldlM_completes hslot hr
  exact ⟨t, ht⟩

/-! ### One iteration of the walk (R152 to R158) -/

theorem idxdec_le {h x : Byte} {idx : BitVec 7} (hi : Operands.idxdec h x = some idx) : idx.toNat ≤ 89 := by
  unfold Operands.idxdec at hi
  split_ifs at hi with _ hx
  rw [← Option.some.inj hi, BitVec.toNat_ofNat]
  exact (Nat.mod_le _ _).trans hx.2

theorem angle_lt {idx : BitVec 7} (hi : idx.toNat ≤ 89) (o : BitVec 2) : (Operands.angle idx o).toNat < 360 := by
  have ho := o.isLt
  rw [Operands.angle, BitVec.toNat_ofNat]
  omega

theorem mem_scanOffsets {k : Nat} : k ∈ scanOffsets ↔ 2 ≤ k ∧ k ≤ 21 := by
  simp only [scanOffsets, List.mem_range'_1]
  omega

theorem State.firstHeader_completes {s : State} {n i : Nat} (hr : s.readsBelow n) {ks : List Nat}
    (hk : ∀ k ∈ ks, i + k < n) : ∃ r, s.firstHeader i ks = .ok r := by
  induction ks with
  | nil => exact ⟨none, rfl⟩
  | cons k ks ih =>
    obtain ⟨b, hb⟩ := hr (i + k) (hk k (List.mem_cons_self ..))
    obtain ⟨r, hr⟩ := ih fun m hm => hk m (List.mem_cons_of_mem _ hm)
    by_cases hd : b = Config.hdr
    · exact ⟨some k, except_bind_ok.2 ⟨b, hb, if_pos hd⟩⟩
    · exact ⟨r, except_bind_ok.2 ⟨b, hb, (if_neg hd).trans hr⟩⟩

/-- A pair that is no candidate is skipped (R154). -/
theorem State.walkIter_of_skip {s : State} {h x : Byte} (h1 : s.rawRead s.locals.cursor = .ok h)
    (h2 : s.rawRead (s.locals.cursor + 1) = .ok x) (hi : Operands.idxdec h x = none) :
    s.walkIter = .ok ((s.setCandidate none).advance 1) := by
  simp only [State.walkIter, h1, h2, hi, bind, Except.bind, pure, Except.pure]

/-- A candidate with a premature header is dropped up to it (R155). -/
theorem State.walkIter_of_premature {s : State} {h x : Byte} {idx : BitVec 7} {k : Nat}
    (h1 : s.rawRead s.locals.cursor = .ok h) (h2 : s.rawRead (s.locals.cursor + 1) = .ok x)
    (hi : Operands.idxdec h x = some idx) (hk : s.firstHeader s.locals.cursor scanOffsets = .ok (some k)) :
    s.walkIter = .ok (((s.setCandidate (some idx)).setPremature (some k)).advance k) := by
  simp only [State.walkIter, h1, h2, hi, hk, bind, Except.bind, pure, Except.pure]

/-- A candidate without one is accepted (R156). -/
theorem State.walkIter_of_packet {s : State} {h x : Byte} {idx : BitVec 7}
    (h1 : s.rawRead s.locals.cursor = .ok h) (h2 : s.rawRead (s.locals.cursor + 1) = .ok x)
    (hi : Operands.idxdec h x = some idx) (hk : s.firstHeader s.locals.cursor scanOffsets = .ok none) :
    s.walkIter = ((s.setCandidate (some idx)).setPremature none).acceptPacket idx := by
  simp only [State.walkIter, h1, h2, hi, hk, bind, Except.bind]

/-- A packet that lies inside the readable bytes is accepted without a fault (R156). -/
theorem State.acceptPacket_completes {s : State} {n : Nat} {idx : BitVec 7} (hr : s.readsBelow n)
    (hc : s.locals.cursor + 22 ≤ n) (hi : idx.toNat ≤ 89) : ∃ t, s.acceptPacket idx = .ok t := by
  obtain ⟨speed, hs⟩ := State.rawRead2_completes (j := s.locals.cursor + 2) hr (by omega)
  have hsample : ∀ u : State, ∀ o ∈ sampleNumbers, u.readsBelow n →
      ∃ v, u.acceptSample s.locals.cursor idx o = .ok v ∧ v.readsBelow n := by
    intro u o _ hu
    have ho := o.isLt
    exact State.writeSample_completes hu (by omega) (angle_lt hi o)
  obtain ⟨u, hu, -⟩ := foldlM_completes hsample ((s.countPacket_walkOnly speed).readsBelow hr)
  exact ⟨_, except_bind_ok.2 ⟨speed, hs, except_bind_ok.2 ⟨u, hu, rfl⟩⟩⟩

/-- While a packet fits at the cursor, an iteration over a stored block completes, whatever the block holds. -/
theorem State.walkIter_completes {s : State} {n : Nat} (hr : s.readsBelow n) (hc : s.locals.cursor + 22 ≤ n) :
    ∃ t, s.walkIter = .ok t := by
  obtain ⟨h, h1⟩ := hr s.locals.cursor (by omega)
  obtain ⟨x, h2⟩ := hr (s.locals.cursor + 1) (by omega)
  cases hi : Operands.idxdec h x with
  | none => exact ⟨_, State.walkIter_of_skip h1 h2 hi⟩
  | some idx =>
    obtain ⟨r, hk⟩ := State.firstHeader_completes (i := s.locals.cursor) (ks := scanOffsets) hr fun k hk => by
      have := mem_scanOffsets.1 hk
      omega
    cases r with
    | some k => exact ⟨_, State.walkIter_of_premature h1 h2 hi hk⟩
    | none =>
      rw [State.walkIter_of_packet h1 h2 hi hk]
      have hr' := ((s.setCandidate_walkOnly (some idx)).trans (State.setPremature_walkOnly _ none)).readsBelow hr
      exact State.acceptPacket_completes hr' (by simpa using hc) (idxdec_le hi)

/-- What accepting a packet does to the cursor, the sum and the counter (R156). -/
theorem State.acceptPacket_counts {s t : State} {idx : BitVec 7} (h : s.acceptPacket idx = .ok t) :
    t.locals.cursor = s.locals.cursor + 22 ∧ t.goodPackets = s.goodPackets + 1 ∧
      ∃ v : BitVec 16, t.speedSum = s.speedSum + v.zeroExtend 23 := by
  obtain ⟨v, u, -, ⟨acc, log, rfl⟩, -, rfl⟩ := State.acceptPacket_ok h
  split <;> exact ⟨rfl, rfl, v, rfl⟩

/-- An iteration moves on by less than a packet and counts nothing, or it moves on by a packet and counts it
(R154 to R156). -/
theorem State.walkIter_counts {s t : State} (h : s.walkIter = .ok t) :
    (s.locals.cursor + 1 ≤ t.locals.cursor ∧ t.locals.cursor ≤ s.locals.cursor + 21 ∧
      t.goodPackets = s.goodPackets ∧ t.speedSum = s.speedSum) ∨
    (t.locals.cursor = s.locals.cursor + 22 ∧ t.goodPackets = s.goodPackets + 1 ∧
      ∃ v : BitVec 16, t.speedSum = s.speedSum + v.zeroExtend 23) := by
  obtain ⟨hd, x, -, -, ⟨-, rfl⟩ | ⟨idx, k, -, hk, rfl⟩ | ⟨idx, -, -, h⟩⟩ := State.walkIter_ok h
  · left
    simp
  · obtain ⟨before, after, hks, -, -⟩ := State.firstHeader_some hk
    have hk : k ∈ scanOffsets := by simp [hks]
    obtain ⟨h2, h21⟩ := mem_scanOffsets.1 hk
    left
    simpa using ⟨by omega, h21⟩
  · right
    simpa using State.acceptPacket_counts h

/-- Every iteration moves on by 1 to 22 bytes (R158). -/
theorem State.walkIter_cursor {s t : State} (h : s.walkIter = .ok t) :
    s.locals.cursor + 1 ≤ t.locals.cursor ∧ t.locals.cursor ≤ s.locals.cursor + 22 := by
  obtain ⟨h1, h2, -⟩ | ⟨h1, -⟩ := State.walkIter_counts h <;> omega

/-! ### The loop of the walk (R157 to R159) -/

theorem State.walkGoes_iff {s : State} :
    s.walkGoes = true ↔ s.locals.cursor + 22 ≤ 1980 ∧ s.locals.stop = false := by
  simp [State.walkGoes, Config.pktLen, Config.pblockLen]

theorem State.walkLoop_of_ended {s : State} (h : s.walkGoes = false) (n : Nat) : State.walkLoop n s = .ok s := by
  cases n with
  | zero => rfl
  | succ n => simp [State.walkLoop_succ, h]

/-- Each iteration moves on by a byte at least, so fuel for every offset up to 1958 is fuel enough (R158). -/
theorem State.walkLoop_fuel {n m : Nat} {s : State} (hn : 1959 ≤ n + s.locals.cursor)
    (hm : 1959 ≤ m + s.locals.cursor) : State.walkLoop n s = State.walkLoop m s := by
  induction n generalizing m s with
  | zero =>
    have hg : s.walkGoes = false := by
      rw [← Bool.not_eq_true, State.walkGoes_iff]
      omega
    rw [State.walkLoop_of_ended hg, State.walkLoop_of_ended hg]
  | succ n ih =>
    cases hg : s.walkGoes with
    | false => rw [State.walkLoop_of_ended hg, State.walkLoop_of_ended hg]
    | true =>
      have hc := (State.walkGoes_iff.1 hg).1
      obtain ⟨m, rfl⟩ : ∃ k, m = k + 1 := ⟨m - 1, by omega⟩
      rw [State.walkLoop_succ, State.walkLoop_succ, if_pos hg, if_pos hg]
      cases hi : s.walkIter with
      | error f => rfl
      | ok t =>
        have := (State.walkIter_cursor hi).1
        exact ih (by omega) (by omega)

/-- On a stored block the loop completes, with any fuel. -/
theorem State.walkLoop_completes {s : State} (hr : s.readsBelow 1980) (n : Nat) :
    ∃ t, State.walkLoop n s = .ok t := by
  induction n generalizing s with
  | zero => exact ⟨s, rfl⟩
  | succ n ih =>
    cases hg : s.walkGoes with
    | false => exact ⟨s, State.walkLoop_of_ended hg _⟩
    | true =>
      obtain ⟨u, hu⟩ := State.walkIter_completes hr (State.walkGoes_iff.1 hg).1
      obtain ⟨t, ht⟩ := ih ((State.walkIter_walkOnly hu).readsBelow hr)
      exact ⟨t, by rw [State.walkLoop_succ, if_pos hg]; exact except_bind_ok.2 ⟨u, hu, ht⟩⟩

/-- The walk is the loop with the fuel R158 gives, its locals discarded at the end (R152, R24). -/
theorem State.walkBlock_eq (s : State) :
    s.walkBlock = (State.walkLoop 1959 { s with locals := Locals.init }).map
      (fun t => { t with locals := Locals.init }) := by
  have hf : State.walkLoop Config.pblockLen { s with locals := Locals.init } =
      State.walkLoop 1959 { s with locals := Locals.init } := 
    State.walkLoop_fuel (Nat.le_add_right_of_le (by decide)) (Nat.le_add_right _ _)
  rw [State.walkBlock, hf]
  cases State.walkLoop 1959 { s with locals := Locals.init } <;> rfl

/-- The counter and the sum of a walk, in terms of the cursor: an accepted packet has taken 22 bytes of the block and
added at most 65535 to the sum. -/
def State.sumsPaid (s : State) : Prop :=
  22 * s.goodPackets.toNat ≤ s.locals.cursor ∧ s.locals.cursor ≤ 1980 ∧
    s.speedSum.toNat ≤ 65535 * s.goodPackets.toNat

/-- The counter and the sum do not wrap: 90 packets fit in the block (R110, R159). -/
theorem State.walkIter_sumsPaid {s t : State} (hs : s.sumsPaid) (hg : s.walkGoes = true) (h : s.walkIter = .ok t) :
    t.sumsPaid := by
  obtain ⟨hgood, -, hsum⟩ := hs
  have hc := (State.walkGoes_iff.1 hg).1
  obtain ⟨-, h2, hgood', hsum'⟩ | ⟨h2, hgood', v, hsum'⟩ := State.walkIter_counts h
  · have h1 := (State.walkIter_cursor h).1
    refine ⟨?_, ?_, ?_⟩
    · rw [hgood']; omega
    · omega
    · rw [hgood', hsum']; omega
  · have hv := v.isLt
    have hg1 : (s.goodPackets + 1).toNat = s.goodPackets.toNat + 1 := by
      have h1 : (1 : BitVec 7).toNat = 1 := rfl
      rw [BitVec.toNat_add, h1]
      omega
    have hs1 : (s.speedSum + v.zeroExtend 23).toNat = s.speedSum.toNat + v.toNat := by
      rw [BitVec.toNat_add, BitVec.toNat_setWidth]
      omega
    refine ⟨?_, ?_, ?_⟩
    · rw [hgood', hg1]; omega
    · omega
    · rw [hgood', hsum', hg1, hs1]; omega

/-- A walk from zero sums accepts at most 90 packets (R159). -/
theorem State.walkBlock_bounds {s t : State} (hs : s.speedSum = 0) (hg : s.goodPackets = 0)
    (h : s.walkBlock = .ok t) : t.goodPackets.toNat ≤ 90 ∧ t.speedSum.toNat ≤ 65535 * t.goodPackets.toNat := by
  obtain ⟨u, hu, rfl⟩ := State.walkBlock_ok h
  have h0 : State.sumsPaid { s with locals := Locals.init } := by simp [State.sumsPaid, hs, hg, Locals.init]
  obtain ⟨hgood, hc, hsum⟩ :=
    State.walkLoop_keeps State.sumsPaid (fun _ _ => State.walkIter_sumsPaid) h0 hu
  exact ⟨show u.goodPackets.toNat ≤ 90 by omega, hsum⟩

theorem State.walkBlock_locals {s t : State} (h : s.walkBlock = .ok t) : t.locals = Locals.init := by
  obtain ⟨u, -, rfl⟩ := State.walkBlock_ok h
  rfl

theorem State.walkBlock_completes {s : State} (hr : s.readsBelow 1980) : ∃ t, s.walkBlock = .ok t := by
  obtain ⟨u, hu⟩ := State.walkLoop_completes (s := { s with locals := Locals.init }) hr 1959
  exact ⟨_, by rw [State.walkBlock_eq, hu]; rfl⟩

/-! ### Status and the host's operations (R33, R190, R191) -/

theorem State.busy_eq_true {s : State} : s.busy = true ↔ s.phase ≠ .idle := by
  simp [State.busy]

theorem State.busy_eq_false {s : State} : s.busy = false ↔ s.phase = .idle := by
  simp [State.busy]

/-- Nothing held goes before the next offer: the unit is IDLE, or nothing is held. -/
theorem State.waitsForOffer {s : State} (h : s.phase = .idle ∨ s.held = []) : s.busy = true → s.held = [] := by
  intro hb
  exact h.resolve_left (State.busy_eq_true.1 hb)

theorem execPoll_of_idle {s : State} (hb : s.busy = false) : execPoll s = .next s.startPoll := by
  simp [execPoll, hb]

theorem execPoll_of_busy {s : State} (hb : s.busy = true) : execPoll s = .refused .pollWhileBusy := by
  simp [execPoll, hb]

theorem execFail_of_busy {s : State} (hb : s.busy = true) : execFail s = .next s.raiseTransportFailure := by
  simp [execFail, hb]

/-- Every slot of the cleared accumulator is the default (R30, R170). -/
theorem clearedSlots_getElem (a : Fin 360) : clearedSlots[a] = Slot.zero := by
  simp [clearedSlots]

/-! ### The step, by what the environment brings (R38, R194) -/

/-- The answer to a key in the state its operation runs in. -/
def State.runKey (s : State) (k : Key) : Answer :=
  match decode k with
  | .ok i => exec i s
  | .error e => .refused (Refusal.ofDecode e)

theorem State.runKey_ok {s : State} {k : Key} {i : Instr} (hd : decode k = .ok i) : s.runKey k = exec i s := by
  simp only [State.runKey, hd]

theorem State.runKey_error {s : State} {k : Key} {e : DecodeError} (hd : decode k = .error e) :
    s.runKey k = .refused (Refusal.ofDecode e) := by
  simp only [State.runKey, hd]

theorem step_of_fetch {s t : State} {k : Key} (hf : s.fetch = .key k t) : step s = t.runKey k := by
  cases hd : decode k with
  | ok i => rw [step_of_fetch_key hf hd, State.runKey_ok hd]
  | error e =>
    rw [State.runKey_error hd]
    simp only [step, hf, hd]

/-- While busy, an event held by the byte source goes first (R90). -/
theorem State.fetch_held {s : State} {e : SourceEvent} {rest : List SourceEvent} (hb : s.busy = true)
    (hh : s.held = e :: rest) : s.fetch = .key (s.sourceKey e) { s with held := rest } := by
  simp only [State.fetch, hb, hh]

/-- Otherwise what is offered next does. -/
theorem State.fetch_offered {s : State} (hw : s.busy = true → s.held = []) : s.fetch = s.takeOffer := by
  unfold State.fetch
  split
  · rename_i e rest hb hh
    simp [hw hb] at hh
  · rfl

section Offered
variable {s : State} {rest : List Offer} (hw : s.busy = true → s.held = [])
include hw

theorem step_of_nothing (ho : s.offers = []) : step s = .next s := by
  have hf : s.fetch = .nothing := by rw [State.fetch_offered hw, State.takeOffer, ho]
  simp only [step, hf]

theorem step_of_poll (ho : s.offers = .poll :: rest) :
    step s = State.runKey { s with offers := rest } (.event (eventWord 2 s.variant s.phase)) :=
  step_of_fetch (by rw [State.fetch_offered hw, State.takeOffer, ho])

theorem step_of_reset (ho : s.offers = .reset :: rest) :
    step s = exec (.reset s.variant s.phase) { s with offers := rest } :=
  step_of_fetch_key (by rw [State.fetch_offered hw, State.takeOffer, ho]) (decode_resetWord _ _)

end Offered

theorem step_of_poll_idle {s : State} {rest : List Offer} (ho : s.offers = .poll :: rest) (hb : s.busy = false) :
    step s = exec (.poll s.variant) { s with offers := rest } := by
  rw [step_of_poll (by simp [hb]) ho]
  exact State.runKey_ok (by rw [decode_pollWord, if_pos (State.busy_eq_false.1 hb)])

theorem step_of_poll_busy {s : State} {rest : List Offer} (ho : s.offers = .poll :: rest) (hb : s.busy = true)
    (hh : s.held = []) : step s = .refused .pollWhileBusy := by
  rw [step_of_poll (fun _ => hh) ho]
  exact State.runKey_error (e := .pollWhileBusy) (by rw [decode_pollWord, if_neg (State.busy_eq_true.1 hb)])

theorem step_of_source_idle {s : State} {e : SourceEvent} {rest : List Offer} (ho : s.offers = .source e :: rest)
    (hb : s.busy = false) : step s = .next { s with offers := rest, held := s.held ++ [e] } := by
  have hf : s.fetch = .kept { s with offers := rest, held := s.held ++ [e] } := by
    simp [State.fetch_offered (s := s), State.takeOffer, ho, hb, State.hold]
  simp only [step, hf]

theorem step_of_source_busy {s : State} {e : SourceEvent} {rest : List Offer} (ho : s.offers = .source e :: rest)
    (hb : s.busy = true) (hh : s.held = []) : step s = State.runKey { s with offers := rest } (s.sourceKey e) :=
  step_of_fetch (by simp [State.fetch_offered (s := s), State.takeOffer, ho, hb, hh])

theorem step_of_held {s : State} {e : SourceEvent} {rest : List SourceEvent} (hb : s.busy = true)
    (hh : s.held = e :: rest) : step s = State.runKey { s with held := rest } (s.sourceKey e) :=
  step_of_fetch (State.fetch_held hb hh)

/-- All that a step can be when the environment offers events only: R38's table, and what the unit does in each cell. -/
inductive EventStep (s : State) : Prop
  | waits (ho : s.offers = []) (h : step s = .next s)
  | holds (e : SourceEvent) (rest : List Offer) (ho : s.offers = .source e :: rest) (hb : s.busy = false)
      (h : step s = .next { s with offers := rest, held := s.held ++ [e] })
  | polls (rest : List Offer) (ho : s.offers = .poll :: rest) (hb : s.busy = false)
      (h : step s = .next (State.startPoll { s with offers := rest }))
  | refusesPoll (rest : List Offer) (ho : s.offers = .poll :: rest) (hb : s.busy = true) (hh : s.held = [])
      (h : step s = .refused .pollWhileBusy)
  | resets (rest : List Offer) (ho : s.offers = .reset :: rest) (hw : s.busy = true → s.held = [])
      (h : step s = .next (State.resetUnit { s with offers := rest }))
  | takes (e : SourceEvent) (offers : List Offer) (held : List SourceEvent) (ho : offers ⊆ s.offers)
      (hb : s.busy = true) (h : step s = State.runKey { s with offers := offers, held := held } (s.sourceKey e))

/-- A direct invocation aside, every offer has its cell. -/
theorem State.eventsOnly.step {s : State} (he : s.eventsOnly) : EventStep s := by
  by_cases hw : s.busy = true → s.held = []
  · cases ho : s.offers with
    | nil => exact .waits ho (step_of_nothing hw ho)
    | cons o rest =>
      cases o with
      | direct k => exact absurd (ho ▸ List.mem_cons_self ..) (he k)
      | reset => exact .resets rest ho hw (step_of_reset hw ho)
      | poll =>
        cases hb : s.busy with
        | false => exact .polls rest ho hb ((step_of_poll_idle ho hb).trans (execPoll_of_idle hb))
        | true => exact .refusesPoll rest ho hb (hw hb) (step_of_poll_busy ho hb (hw hb))
      | source e =>
        cases hb : s.busy with
        | false => exact .holds e rest ho hb (step_of_source_idle ho hb)
        | true => exact .takes e rest s.held (ho ▸ List.subset_cons_self ..) hb (step_of_source_busy ho hb (hw hb))
  · obtain ⟨hb, hh⟩ := Classical.not_imp.1 hw
    obtain ⟨e, rest, hh⟩ := List.exists_cons_of_ne_nil hh
    exact .takes e s.offers rest (List.Subset.refl _) hb (step_of_held hb hh)

/-! ### The operation an event of the byte source selects (R80 to R84, R193) -/

theorem State.decode_failKey {s : State} (hb : s.busy = true) :
    decode (s.sourceKey .fail) = .ok (.fail s.variant s.phase) :=
  decode_failWord _ _ (State.busy_eq_true.1 hb)

section ByteKey
variable {s : State} (b : Byte)

theorem State.decode_byteKey_legacySearch (hv : s.variant = .legacy) (hp : s.phase = .search) :
    decode (s.sourceKey (.byte b)) = .ok (decodeLegacySearch s.startCount b) := by
  simp only [State.sourceKey, decode_byteKeyWord, State.subState, hv, hp]

theorem State.decode_byteKey_legacySpeed (hv : s.variant = .legacy) (hp : s.phase = .speed) :
    decode (s.sourceKey (.byte b)) = .ok (if s.fillCount.extractLsb' 0 1 = 0 then .lspd0 b else .lspd1 b) := by
  obtain hc | hc := (by decide : ∀ c : BitVec 1, c = 0 ∨ c = 1) (s.fillCount.extractLsb' 0 1)
  · simp only [State.sourceKey, decode_byteKeyWord, State.subState, hv, hp, hc]
    rfl
  · simp only [State.sourceKey, decode_byteKeyWord, State.subState, hv, hp, hc]
    rfl

theorem State.decode_byteKey_legacyFill (hv : s.variant = .legacy) (hp : s.phase = .fill) :
    decode (s.sourceKey (.byte b)) = .ok (.lbody b) := by
  simp only [State.sourceKey, decode_byteKeyWord, hv, hp]

theorem State.decode_byteKey_packetSearch (hv : s.variant = .packetized) (hp : s.phase = .search) :
    decode (s.sourceKey (.byte b)) = .ok (decodePacketSearch (s.startCount.extractLsb' 0 1) b) := by
  have hhigh : ∀ c : BitVec 1, (0#1 ++ c).extractLsb' 1 1 = 0 := by decide
  have hlow : ∀ c : BitVec 1, (0#1 ++ c).extractLsb' 0 1 = c := by decide
  simp only [State.sourceKey, decode_byteKeyWord, State.subState, hv, hp, hhigh, hlow, if_true]

theorem State.decode_byteKey_packetFill (hv : s.variant = .packetized) (hp : s.phase = .fill) :
    decode (s.sourceKey (.byte b)) = .ok (.pfill b) := by
  simp only [State.sourceKey, decode_byteKeyWord, hv, hp]

/-- While busy, a BYTE selects an operation in every phase its variant reaches (R193). -/
theorem State.decode_byteKey (hb : s.busy = true) (hs : ¬(s.variant = .packetized ∧ s.phase = .speed)) :
    ∃ i, decode (s.sourceKey (.byte b)) = .ok i := by
  cases hv : s.variant <;> cases hp : s.phase
  case legacy.idle | packetized.idle => exact absurd hp (State.busy_eq_true.1 hb)
  case legacy.search => exact ⟨_, State.decode_byteKey_legacySearch b hv hp⟩
  case legacy.speed => exact ⟨_, State.decode_byteKey_legacySpeed b hv hp⟩
  case legacy.fill => exact ⟨_, State.decode_byteKey_legacyFill b hv hp⟩
  case packetized.search => exact ⟨_, State.decode_byteKey_packetSearch b hv hp⟩
  case packetized.speed => exact absurd ⟨hv, hp⟩ hs
  case packetized.fill => exact ⟨_, State.decode_byteKey_packetFill b hv hp⟩

end ByteKey

/-! ### The invariant, phase by phase (R43) -/

/-- What the invariant says of an outstanding `poll()`, whatever its phase: nothing has been returned or accumulated. -/
structure Outstanding (s : State) : Prop where
  rawWf : Memory.wf s.raw = true
  result : s.result = .none
  acc : s.acc = clearedSlots
  speedSum : s.speedSum = 0
  goodPackets : s.goodPackets = 0
  locals : s.locals = Locals.init
  events : s.eventsOnly

theorem Inv.outstanding {s : State} (hi : Inv s) (hb : s.busy = true) : Outstanding s :=
  have ⟨hacc, hsum, hgood⟩ := hi.busyFresh hb
  ⟨hi.rawWf, hi.busyNoResult hb, hacc, hsum, hgood, hi.noLocals, hi.events⟩

/-- In IDLE the sums are bounded once a `poll()` has returned. -/
theorem Inv.of_idle {t : State} (hp : t.phase = .idle) (hwf : Memory.wf t.raw = true) (hc : t.startCount = 0)
    (hl : t.locals = Locals.init) (he : t.eventsOnly)
    (hsum : t.result ≠ .none → t.goodPackets.toNat ≤ 90 ∧ t.speedSum.toNat ≤ 65535 * t.goodPackets.toNat)
    (hleg : t.variant = .legacy → t.result ≠ .none → t.speedSum = 0 ∧ t.goodPackets = 0) : Inv t := by
  have hb : t.busy = false := State.busy_eq_false.2 hp
  constructor <;> simp_all

/-- In SEARCH a count of the packetized matcher means that the header byte is there. -/
theorem Inv.of_search {t : State} (hp : t.phase = .search) (ht : Outstanding t)
    (hc : t.variant = .packetized → t.startCount.toNat ≤ 1)
    (hh : t.variant = .packetized → t.startCount = 1 → Memory.read t.raw 0 = some 0xFA) : Inv t := by
  obtain ⟨hwf, hr, hacc, hsum, hgood, hl, he⟩ := ht
  constructor <;> simp_all

/-- SPEED is a phase of the Legacy variant, with two bytes to read. -/
theorem Inv.of_speed {t : State} (hp : t.phase = .speed) (ht : Outstanding t) (hv : t.variant = .legacy)
    (hc : t.startCount = 0) (hf : t.fillCount.toNat ≤ 1) : Inv t := by
  obtain ⟨hwf, hr, hacc, hsum, hgood, hl, he⟩ := ht
  constructor <;> simp_all

/-- In FILL the bytes below `fill_count` are there, the two sync bytes of a block among them. -/
theorem Inv.of_fill {t : State} (hp : t.phase = .fill) (ht : Outstanding t) (hc : t.startCount = 0)
    (hw : t.writtenBelow t.fillCount.toNat) (hleg : t.variant = .legacy → t.fillCount.toNat ≤ 1439)
    (hpack : t.variant = .packetized → (2 ≤ t.fillCount.toNat ∧ t.fillCount.toNat ≤ 1979) ∧
      Memory.read t.raw 0 = some 0xFA ∧ Memory.read t.raw 1 = some 0xA0) : Inv t := by
  obtain ⟨hwf, hr, hacc, hsum, hgood, hl, he⟩ := ht
  constructor <;> simp_all

/-! ### The invariant and the host's events (R190 to R192) -/

theorem Inv.reset : Inv State.reset :=
  Inv.of_idle rfl rfl rfl rfl (fun _ => List.not_mem_nil) (absurd rfl) (fun _ => absurd rfl)

theorem Inv.resetUnit {s : State} (hi : Inv s) : Inv s.resetUnit :=
  Inv.of_idle rfl rfl rfl rfl hi.events (absurd rfl) (fun _ => absurd rfl)

theorem Inv.startPoll {s : State} (hi : Inv s) : Inv s.startPoll :=
  Inv.of_search rfl ⟨hi.rawWf, rfl, rfl, rfl, rfl, hi.noLocals, hi.events⟩ (by simp) (by simp)

theorem Inv.raiseTransportFailure {s : State} (hi : Inv s) (hb : s.busy = true) : Inv s.raiseTransportFailure :=
  Inv.of_idle rfl hi.rawWf rfl hi.noLocals hi.events (fun _ => hi.sumBounded (.inl hb))
    (fun hv _ => hi.legacyNoSum hv (.inl hb))

/-- The two queues of the environment may change, as long as only events are offered. -/
theorem Inv.withQueues {s : State} (hi : Inv s) {offers : List Offer} (ho : offers ⊆ s.offers)
    (held : List SourceEvent) : Inv { s with offers := offers, held := held } :=
  { hi with events := fun k hk => hi.events k (ho hk) }

/-! ### The invariant and the bytes of the matchers (R120 to R125, R140 to R144) -/

theorem State.busy_of_phase {s : State} {p : Phase} (hp : s.phase = p) (h : p ≠ .idle) : s.busy = true :=
  State.busy_eq_true.2 (hp ▸ h)

theorem Inv.legacyCount {s : State} (hi : Inv s) (hv : s.variant = .legacy) (hp : s.phase = .search)
    (c : BitVec 2) : Inv { s with startCount := c } :=
  Inv.of_search hp { hi.outstanding (State.busy_of_phase hp (by decide)) with } (by simp [hv]) (by simp [hv])

theorem Inv.legacySearch {s : State} (hi : Inv s) (hv : s.variant = .legacy) (hp : s.phase = .search)
    (cc : BitVec 2) (b : Byte) : ∃ t, exec (decodeLegacySearch cc b) s = .next t ∧ Inv t := by
  have ho := hi.outstanding (State.busy_of_phase hp (by decide))
  unfold decodeLegacySearch
  split_ifs
  · exact ⟨_, rfl, hi.legacyCount hv hp 1⟩
  · exact ⟨_, rfl, hi.legacyCount hv hp 2⟩
  · exact ⟨_, rfl, hi.legacyCount hv hp 3⟩
  · exact ⟨_, rfl, Inv.of_speed rfl { ho with } hv rfl (Nat.zero_le _)⟩
  · exact ⟨_, rfl, hi.legacyCount hv hp 0⟩

theorem Inv.packetSearch {s : State} (hi : Inv s) (hv : s.variant = .packetized) (hp : s.phase = .search)
    (b : Byte) : ∃ t, exec (decodePacketSearch (s.startCount.extractLsb' 0 1) b) s = .next t ∧ Inv t := by
  have ho := hi.outstanding (State.busy_of_phase hp (by decide))
  unfold decodePacketSearch
  split_ifs with h0 h1
  · refine ⟨_, execPs0_eq s, Inv.of_search hp { ho with rawWf := Memory.write_wf _ _ ho.rawWf } (by simp) ?_⟩
    exact fun _ _ => Memory.read_write_same ..
  · have hone : ∀ c : BitVec 2, c.toNat ≤ 1 → c.extractLsb' 0 1 = 1 → c = 1 := by decide
    have hc : s.startCount = 1 := hone _ (hi.countPacketized hv) h1.1
    have hfa : Memory.read (Memory.write s.raw 1 0xA0) 0 = some 0xFA := by
      rw [Memory.read_write_other _ _ (by decide)]
      exact hi.headerKept hp hv hc
    have ha0 : Memory.read (Memory.write s.raw 1 0xA0) 1 = some 0xA0 := Memory.read_write_same ..
    refine ⟨_, execPs1_eq s, Inv.of_fill rfl { ho with rawWf := Memory.write_wf _ _ ho.rawWf } rfl ?_ (by simp [hv])
      (fun _ => ⟨by simp, hfa, ha0⟩)⟩
    intro j hj
    obtain rfl | rfl : j = 0 ∨ j = 1 := by
      have : j < 2 := hj
      omega
    · exact ⟨_, hfa⟩
    · exact ⟨_, ha0⟩
  · exact ⟨_, rfl, Inv.of_search hp { ho with } (by simp) (by simp)⟩

/-! ### The invariant and the bytes of a frame (R130 to R133, R143) -/

theorem Inv.legacySpeed {s : State} (hi : Inv s) (hv : s.variant = .legacy) (hp : s.phase = .speed) (b : Byte) :
    (∃ t, execLspd0 b s = .next t ∧ Inv t) ∧ ∃ t, execLspd1 b s = .next t ∧ Inv t := by
  have ho := hi.outstanding (State.busy_of_phase hp (by decide))
  have hc : s.startCount = 0 := hi.countOutsideSearch (by simp [hp])
  exact ⟨⟨_, rfl, Inv.of_speed hp { ho with } hv hc (by simp)⟩,
    ⟨_, rfl, Inv.of_fill rfl { ho with } hc (fun j hj => absurd hj (Nat.not_lt_zero j)) (fun _ => Nat.zero_le _)
      (by simp [hv])⟩⟩

/-- The state after a store: the byte at the offset, and the entry of the event log (R13, R37). -/
def State.stored (s : State) (j : Nat) (b : Byte) : State :=
  { s with raw := Memory.write s.raw j b, log := .store j b :: s.log }

theorem State.rawWrite_eq_stored {s : State} {j : Nat} (hj : j < s.rawLen) (b : Byte) :
    s.rawWrite j b = .ok (s.stored j b) :=
  State.rawWrite_ok.2 ⟨hj, rfl⟩

theorem Outstanding.stored {s : State} (ho : Outstanding s) (j : Nat) (b : Byte) : Outstanding (s.stored j b) :=
  { ho with rawWf := Memory.write_wf _ _ ho.rawWf }

/-- A store at the first offset that holds no byte yet: the bytes stored so far reach one further (R65). -/
theorem State.writtenBelow.stored {s : State} {n : Nat} (h : s.writtenBelow n) (b : Byte) :
    (s.stored n b).writtenBelow (n + 1) := by
  intro j hj
  by_cases hjn : j = n
  · exact ⟨b, hjn ▸ Memory.read_write_same ..⟩
  · obtain ⟨c, hc⟩ := h j (by omega)
    exact ⟨c, (Memory.read_write_other _ _ hjn).trans hc⟩

theorem fillCount_succ {c : BitVec 11} (h : c.toNat < 1979) : (c + 1).toNat = c.toNat + 1 := by
  have h1 : (1 : BitVec 11).toNat = 1 := rfl
  rw [BitVec.toNat_add, h1]
  omega

/-- A byte that is not the last one of its frame. -/
theorem Inv.storeNext {s : State} (hi : Inv s) (hp : s.phase = .fill)
    (hleg : s.variant = .legacy → s.fillCount.toNat < 1439)
    (hpack : s.variant = .packetized → s.fillCount.toNat < 1979) (b : Byte) :
    Inv { s.stored s.fillCount.toNat b with fillCount := s.fillCount + 1 } := by
  have ho := (hi.outstanding (State.busy_of_phase hp (by decide))).stored s.fillCount.toNat b
  have hlt : s.fillCount.toNat < 1979 := by
    cases hv : s.variant with
    | legacy => exact (hleg hv).trans (by decide)
    | packetized => exact hpack hv
  have hw := (hi.filled hp).stored b
  have hsucc := fillCount_succ hlt
  refine Inv.of_fill hp { ho with } (hi.countOutsideSearch (by simp [hp])) (hsucc ▸ hw) ?_ ?_
  · intro hv
    exact hsucc.le.trans (hleg hv)
  · intro hv
    have hge := (hi.fillPacketized hp hv).1
    obtain ⟨h0, h1⟩ := hi.syncKept hv hp
    refine ⟨⟨hsucc.ge.trans' (by omega), hsucc.le.trans (hpack hv)⟩, ?_, ?_⟩
    · exact (Memory.read_write_other _ _ (by omega)).trans h0
    · exact (Memory.read_write_other _ _ (by omega)).trans h1

theorem Inv.lbody {s : State} (hi : Inv s) (hv : s.variant = .legacy) (hp : s.phase = .fill) (b : Byte) :
    ∃ t, execLbody b s = .next t ∧ Inv t := by
  have ho := (hi.outstanding (State.busy_of_phase hp (by decide))).stored s.fillCount.toNat b
  have hf := hi.fillLegacy hp hv
  have hlen : s.rawLen = 1440 := by rw [State.rawLen, hv]; rfl
  have hwrite := State.rawWrite_eq_stored (s := s) (j := s.fillCount.toNat) (by omega) b
  by_cases hlast : s.fillCount = 1439
  · have hn : s.fillCount.toNat + 1 = 1440 := by rw [hlast]; rfl
    have hw := hn ▸ (hi.filled hp).stored b
    obtain ⟨u, hu⟩ := State.decodeBody_completes (hw.readsBelow hlen.ge)
    refine ⟨u.finish, execLbody_next.2 ⟨_, hwrite, .inl ⟨hlast, u, hu, rfl⟩⟩, ?_⟩
    obtain ⟨acc, log, rfl⟩ := State.decodeBody_slotsOnly hu
    exact Inv.of_idle rfl ho.rawWf (hi.countOutsideSearch (by simp [hp])) ho.locals ho.events
      (fun _ => by simp [ho.speedSum, ho.goodPackets]) (fun _ _ => ⟨ho.speedSum, ho.goodPackets⟩)
  · have hlt : s.fillCount.toNat < 1439 :=
      lt_of_le_of_ne hf fun h => hlast (BitVec.eq_of_toNat_eq h)
    exact ⟨_, execLbody_next.2 ⟨_, hwrite, .inr ⟨hlast, rfl⟩⟩,
      hi.storeNext hp (fun _ => hlt) (by simp [hv]) b⟩

theorem Inv.pfill {s : State} (hi : Inv s) (hv : s.variant = .packetized) (hp : s.phase = .fill) (b : Byte) :
    ∃ t, execPfill b s = .next t ∧ Inv t := by
  have ho := (hi.outstanding (State.busy_of_phase hp (by decide))).stored s.fillCount.toNat b
  have hf := (hi.fillPacketized hp hv).2
  have hlen : s.rawLen = 1980 := by rw [State.rawLen, hv]; rfl
  have hwrite := State.rawWrite_eq_stored (s := s) (j := s.fillCount.toNat) (by omega) b
  by_cases hlast : s.fillCount = 1979
  · have hn : s.fillCount.toNat + 1 = 1980 := by rw [hlast]; rfl
    have hw := hn ▸ (hi.filled hp).stored b
    obtain ⟨u, hu⟩ := State.walkBlock_completes (hw.readsBelow hlen.ge)
    refine ⟨u.finish, execPfill_next.2 ⟨_, hwrite, .inl ⟨hlast, u, hu, rfl⟩⟩, ?_⟩
    have hbounds := State.walkBlock_bounds ho.speedSum ho.goodPackets hu
    have hl := State.walkBlock_locals hu
    obtain ⟨sum, good, acc, loc, log, rfl⟩ := State.walkBlock_walkOnly hu
    exact Inv.of_idle rfl ho.rawWf (hi.countOutsideSearch (by simp [hp])) hl ho.events
      (fun _ => hbounds) (fun h => absurd (hv.symm.trans h) (by decide))
  · have hlt : s.fillCount.toNat < 1979 :=
      lt_of_le_of_ne hf fun h => hlast (BitVec.eq_of_toNat_eq h)
    exact ⟨_, execPfill_next.2 ⟨_, hwrite, .inr ⟨hlast, rfl⟩⟩,
      hi.storeNext hp (by simp [hv]) (fun _ => hlt) b⟩

/-! ### Every event of the byte source completes and keeps the invariant -/

theorem Inv.takes {s : State} (hi : Inv s) (hb : s.busy = true) (e : SourceEvent) :
    ∃ t, s.runKey (s.sourceKey e) = .next t ∧ Inv t := by
  cases e with
  | fail =>
    rw [State.runKey_ok (State.decode_failKey hb)]
    exact ⟨_, execFail_of_busy hb, hi.raiseTransportFailure hb⟩
  | byte b =>
    cases hv : s.variant <;> cases hp : s.phase
    case legacy.idle | packetized.idle => exact absurd hp (State.busy_eq_true.1 hb)
    case packetized.speed => exact absurd (hv.symm.trans (hi.speedLegacy hp)) (by decide)
    case legacy.search =>
      rw [State.runKey_ok (State.decode_byteKey_legacySearch b hv hp)]
      exact hi.legacySearch hv hp _ b
    case legacy.speed =>
      rw [State.runKey_ok (State.decode_byteKey_legacySpeed b hv hp)]
      obtain ⟨h0, h1⟩ := hi.legacySpeed hv hp b
      split
      · exact h0
      · exact h1
    case legacy.fill =>
      rw [State.runKey_ok (State.decode_byteKey_legacyFill b hv hp)]
      exact hi.lbody hv hp b
    case packetized.search =>
      rw [State.runKey_ok (State.decode_byteKey_packetSearch b hv hp)]
      exact hi.packetSearch hv hp b
    case packetized.fill =>
      rw [State.runKey_ok (State.decode_byteKey_packetFill b hv hp)]
      exact hi.pfill hv hp b

/-- The same from the state that fetched the event, whatever the fetch leaves in the two queues. -/
theorem Inv.takesFetched {s : State} (hi : Inv s) (hb : s.busy = true) (e : SourceEvent) {offers : List Offer}
    (ho : offers ⊆ s.offers) (held : List SourceEvent) :
    ∃ t, State.runKey { s with offers := offers, held := held } (s.sourceKey e) = .next t ∧ Inv t :=
  (hi.withQueues ho held).takes hb e

/-! ### Who writes what: the operations with branches of their own (R22 to R32, R50, R51) -/

/-- What LBODY leaves alone (R132, R133, R181). -/
theorem execLbody_frame {s t : State} {b : Byte} (h : execLbody b s = .next t) :
    ∃ raw acc log fc ph res,
      t = { s with raw := raw, acc := acc, log := log, fillCount := fc, phase := ph, result := res } := by
  obtain ⟨w, hw, hlast | hnext⟩ := execLbody_next.1 h
  · obtain ⟨-, u, hu, rfl⟩ := hlast
    obtain ⟨-, rfl⟩ := State.rawWrite_ok.1 hw
    obtain ⟨_, _, rfl⟩ := State.decodeBody_slotsOnly hu
    exact ⟨_, _, _, _, _, _, rfl⟩
  · obtain ⟨-, rfl⟩ := hnext
    obtain ⟨-, rfl⟩ := State.rawWrite_ok.1 hw
    exact ⟨_, _, _, _, _, _, rfl⟩

/-- What PFILL leaves alone (R143, R152, R181). -/
theorem execPfill_frame {s t : State} {b : Byte} (h : execPfill b s = .next t) :
    ∃ raw sum good acc loc log fc ph res,
      t = { s with raw := raw, speedSum := sum, goodPackets := good, acc := acc, locals := loc, log := log,
                   fillCount := fc, phase := ph, result := res } := by
  obtain ⟨w, hw, hlast | hnext⟩ := execPfill_next.1 h
  · obtain ⟨-, u, hu, rfl⟩ := hlast
    obtain ⟨-, rfl⟩ := State.rawWrite_ok.1 hw
    obtain ⟨_, _, _, _, _, rfl⟩ := State.walkBlock_walkOnly hu
    exact ⟨_, _, _, _, _, _, _, _, _, rfl⟩
  · obtain ⟨-, rfl⟩ := hnext
    obtain ⟨-, rfl⟩ := State.rawWrite_ok.1 hw
    exact ⟨_, _, _, _, _, _, _, _, _, rfl⟩

theorem execPoll_next {s t : State} (h : execPoll s = .next t) : s.busy = false ∧ t = s.startPoll := by
  cases hb : s.busy with
  | false => exact ⟨rfl, (Host.Outcome.next.inj ((execPoll_of_idle hb).symm.trans h)).symm⟩
  | true => cases (execPoll_of_busy hb).symm.trans h

theorem execFail_next {s t : State} (h : execFail s = .next t) :
    s.busy = true ∧ t = s.raiseTransportFailure ∨ s.busy = false ∧ t = s.hold .fail := by
  unfold execFail at h
  split at h
  · rename_i hb
    exact .inl ⟨hb, (Host.Outcome.next.inj h).symm⟩
  · rename_i hb
    exact .inr ⟨by simpa using hb, (Host.Outcome.next.inj h).symm⟩

/-- Settles O57, by cases on the operation: the operations with branches by what they leave alone, every other one by
the one update it answers. -/
theorem onlyTheNamedWritersWrite : Obligations.OnlyTheNamedWritersWrite := by
  intro i s t h
  cases i with
  | poll =>
    obtain ⟨-, rfl⟩ := execPoll_next h
    simp [Instr.op]
  | fail =>
    obtain ⟨-, rfl⟩ | ⟨-, rfl⟩ := execFail_next h <;> simp [Instr.op]
  | lbody =>
    obtain ⟨_, _, _, _, _, _, rfl⟩ := execLbody_frame h
    simp [Instr.op]
  | pfill =>
    obtain ⟨_, _, _, _, _, _, _, _, _, rfl⟩ := execPfill_frame h
    simp [Instr.op]
  | ps0 =>
    cases (execPs0_eq s).symm.trans h
    simp [Instr.op]
  | ps1 =>
    cases (execPs1_eq s).symm.trans h
    simp [Instr.op]
  | ldecode =>
    obtain ⟨_, _, rfl⟩ := State.decodeBody_slotsOnly (answer_next.1 h)
    simp [Instr.op]
  | slotwr =>
    obtain ⟨_, _, rfl⟩ := State.slotWrite_slotsOnly (answer_next.1 h)
    simp [Instr.op]
  | walk =>
    obtain ⟨_, _, _, _, _, rfl⟩ := State.walkBlock_walkOnly (answer_next.1 h)
    simp [Instr.op]
  | waccept =>
    obtain ⟨_, _, _, _, _, rfl⟩ := State.acceptPacket_walkOnly (answer_next.1 h)
    simp [Instr.op]
  | _ =>
    cases h
    simp [Instr.op]

/-- Whatever ends an outstanding `poll()` is a completion, a failure, or RESET (R41). -/
theorem exec_ends {i : Instr} {s t : State} (hb : s.busy = true) (h : exec i s = .next t) (ht : t.busy = false) :
    (∃ c, t.result = .scan c) ∨ t.result = .failure .transportFailure ∨ i.op = .reset := by
  have hkept : t.phase ≠ s.phase := by
    rw [State.busy_eq_false.1 ht]
    exact (State.busy_eq_true.1 hb).symm
  cases i with
  | complete => cases h; exact .inl ⟨_, rfl⟩
  | fail =>
    obtain ⟨-, rfl⟩ | ⟨hb', -⟩ := execFail_next h
    · exact .inr (.inl rfl)
    · exact absurd (hb'.symm.trans hb) (by decide)
  | reset => exact .inr (.inr rfl)
  | poll => exact absurd ((execPoll_next h).1.symm.trans hb) (by decide)
  | lbody =>
    obtain ⟨w, hw, ⟨-, u, -, rfl⟩ | ⟨-, rfl⟩⟩ := execLbody_next.1 h
    · exact .inl ⟨_, rfl⟩
    · obtain ⟨-, rfl⟩ := State.rawWrite_ok.1 hw
      exact absurd rfl hkept
  | pfill =>
    obtain ⟨w, hw, ⟨-, u, -, rfl⟩ | ⟨-, rfl⟩⟩ := execPfill_next.1 h
    · exact .inl ⟨_, rfl⟩
    · obtain ⟨-, rfl⟩ := State.rawWrite_ok.1 hw
      exact absurd rfl hkept
  | ls3 | lspd1 => cases h; simp [State.busy] at ht
  | ps1 => cases (execPs1_eq s).symm.trans h; simp [State.busy] at ht
  | _ => exact absurd ((onlyTheNamedWritersWrite _ s t h).1 (by simp [Instr.op])) hkept

theorem decodeLegacySearch_op (cc : BitVec 2) (b : Byte) : (decodeLegacySearch cc b).op ≠ .reset := by
  unfold decodeLegacySearch
  split_ifs <;> simp [Instr.op]

theorem decodePacketSearch_op (c : BitVec 1) (b : Byte) : (decodePacketSearch c b).op ≠ .reset := by
  unfold decodePacketSearch
  split_ifs <;> simp [Instr.op]

/-- No event of the byte source selects RESET, which is the host's alone (R38, R192). -/
theorem State.decode_sourceKey_op {s : State} {e : SourceEvent} {i : Instr} (hb : s.busy = true)
    (h : decode (s.sourceKey e) = .ok i) : i.op ≠ .reset := by
  cases e with
  | fail =>
    cases (State.decode_failKey hb).symm.trans h
    simp [Instr.op]
  | byte b =>
    cases hv : s.variant <;> cases hp : s.phase
    case legacy.idle | packetized.idle => exact absurd hp (State.busy_eq_true.1 hb)
    case packetized.speed =>
      simp only [State.sourceKey, decode_byteKeyWord, hv, hp] at h
      cases h
    case legacy.search =>
      cases (State.decode_byteKey_legacySearch b hv hp).symm.trans h
      exact decodeLegacySearch_op _ _
    case legacy.speed =>
      cases (State.decode_byteKey_legacySpeed b hv hp).symm.trans h
      split <;> simp [Instr.op]
    case legacy.fill =>
      cases (State.decode_byteKey_legacyFill b hv hp).symm.trans h
      simp [Instr.op]
    case packetized.search =>
      cases (State.decode_byteKey_packetSearch b hv hp).symm.trans h
      exact decodePacketSearch_op _ _
    case packetized.fill =>
      cases (State.decode_byteKey_packetFill b hv hp).symm.trans h
      simp [Instr.op]

/-- A key whose operation answers selects that operation. -/
theorem State.runKey_next {s t : State} {k : Key} (h : s.runKey k = .next t) :
    ∃ i, decode k = .ok i ∧ exec i s = .next t := by
  cases hd : decode k with
  | ok i => exact ⟨i, rfl, (State.runKey_ok hd).symm.trans h⟩
  | error e => cases (State.runKey_error hd).symm.trans h

/-! ### The obligations -/

/-- Settles O53: the event that the step takes, by `Inv.takesFetched`; the other cells of R38's table, by the host's
operations. -/
theorem everyStepKeepsTheInvariant : Obligations.EveryStepKeepsTheInvariant := by
  intro s t hi h
  cases hi.events.step with
  | waits _ hs => cases hs.symm.trans h; exact hi
  | holds e rest ho _ hs =>
    cases hs.symm.trans h
    exact hi.withQueues (ho ▸ List.subset_cons_self ..) _
  | polls rest ho _ hs =>
    cases hs.symm.trans h
    exact (hi.withQueues (ho ▸ List.subset_cons_self ..) s.held).startPoll
  | refusesPoll _ _ _ _ hs => cases hs.symm.trans h
  | resets rest ho _ hs =>
    cases hs.symm.trans h
    exact (hi.withQueues (ho ▸ List.subset_cons_self ..) s.held).resetUnit
  | takes e offers held ho hb hs =>
    obtain ⟨u, hu, hiu⟩ := hi.takesFetched hb e ho held
    cases (hs.trans hu).symm.trans h
    exact hiu

/-- Settles O18: an event of the byte source ends the `poll()` by its operation (`exec_ends`), which is never RESET;
of the host's events only RESET does. -/
theorem pollEndsInOneOfThreeWays : Obligations.PollEndsInOneOfThreeWays := by
  intro s t he hb h ht
  cases he.step with
  | waits _ hs =>
    cases hs.symm.trans h
    exact absurd (hb.symm.trans ht) (by decide)
  | holds _ _ _ hb' _ => exact absurd (hb.symm.trans hb') (by decide)
  | polls _ _ hb' _ => exact absurd (hb.symm.trans hb') (by decide)
  | refusesPoll _ _ _ _ hs => cases hs.symm.trans h
  | resets rest ho hw hs =>
    cases hs.symm.trans h
    exact .inr (.inr ⟨rfl, hw hb, rest, ho⟩)
  | takes e offers held _ _ hs =>
    obtain ⟨i, hd, hi⟩ := State.runKey_next (hs.symm.trans h)
    obtain hscan | hfail | hreset := exec_ends (s := { s with offers := offers, held := held }) hb hi ht
    · exact .inl hscan
    · exact .inr (.inl hfail)
    · exact absurd hreset (State.decode_sourceKey_op hb hd)

/-- Settles O36: 90 packets of 22 bytes fill the block (`State.walkBlock_bounds`). -/
theorem atMostNinetyPacketsAccepted : Obligations.AtMostNinetyPacketsAccepted := by
  intro s t hsum hgood h
  exact State.walkBlock_bounds hsum hgood (answer_next.1 h)

/-- Settles O37: the fuel by `State.walkBlock_eq`, the completion by `State.walkLoop_completes`, the frame by
`State.walkLoop_walkOnly`. -/
theorem walkCompletesOnEveryBlock : Obligations.WalkCompletesOnEveryBlock := by
  have hwalk (s : State) := congrArg answer s.walkBlock_eq
  refine ⟨hwalk, rfl, rfl, fun s hv hw => ?_⟩
  have hlen : 1980 ≤ s.rawLen := by rw [State.rawLen, hv]; rfl
  obtain ⟨u, hu⟩ := State.walkLoop_completes (s := { s with locals := Locals.init }) (hw.readsBelow hlen) 1959
  have hexec : exec .walk s = .next { u with locals := Locals.init } := (hwalk s).trans (by rw [hu]; rfl)
  obtain ⟨sum, good, acc, loc, log, hframe⟩ := State.walkLoop_walkOnly hu
  exact ⟨u, sum, good, acc, log, hu, hexec, by rw [hframe]⟩

/-- Settles O54: a taken event completes (`Inv.takesFetched`), and no other cell of R38's table faults. -/
theorem noStepFaults : Obligations.NoStepFaults := by
  intro s f hi h
  cases hi.events.step with
  | waits _ hs | holds _ _ _ _ hs | polls _ _ _ hs | refusesPoll _ _ _ _ hs | resets _ _ _ hs => cases hs.symm.trans h
  | takes e offers held ho hb hs =>
    obtain ⟨u, hu, -⟩ := hi.takesFetched hb e ho held
    cases (hs.trans hu).symm.trans h

/-- Settles O55: a taken event completes (`Inv.takesFetched`), so the one cell that refuses is POLL while busy. -/
theorem onlyPollWhileBusyIsRefused : Obligations.OnlyPollWhileBusyIsRefused := by
  intro s r hi h
  cases hi.events.step with
  | waits _ hs | holds _ _ _ _ hs | polls _ _ _ hs | resets _ _ _ hs => cases hs.symm.trans h
  | refusesPoll rest ho hb hh hs =>
    cases hs.symm.trans h
    exact ⟨rfl, hb, hh, rest, ho⟩
  | takes e offers held ho hb hs =>
    obtain ⟨u, hu, -⟩ := hi.takesFetched hb e ho held
    cases (hs.trans hu).symm.trans h

/-- Settles O10, cell by cell. -/
theorem offersAreTakenHeldOrRefused : Obligations.OffersAreTakenHeldOrRefused := by
  intro s rest
  refine ⟨?_, ?_, ?_, ?_, ?_, ?_⟩
  · exact fun ho hp => step_of_poll_idle ho (State.busy_eq_false.2 hp)
  · exact fun ho hp hh => step_of_poll_busy ho (State.busy_eq_true.2 hp) hh
  · exact fun ho hw => step_of_reset (State.waitsForOffer hw) ho
  · exact fun e ho hp => step_of_source_idle ho (State.busy_eq_false.2 hp)
  · intro ho hp hh
    have hb := State.busy_eq_true.2 hp
    exact (step_of_source_busy ho hb hh).trans (State.runKey_ok (State.decode_failKey hb))
  · intro b ho hp hh hs
    have hb := State.busy_eq_true.2 hp
    obtain ⟨i, hd⟩ := State.decode_byteKey b hb hs
    exact ⟨i, hd, (step_of_source_busy ho hb hh).trans (State.runKey_ok hd)⟩

/-- Settles O12 (`step_of_nothing`). -/
theorem unitWaitsWhenNothingIsOffered : Obligations.UnitWaitsWhenNothingIsOffered := by
  intro s ho hw
  exact step_of_nothing (State.waitsForOffer hw) ho

/-- Settles O13 (`execPoll_of_idle`, `execPoll_of_busy`). -/
theorem pollStartsAPollOrIsRefused : Obligations.PollStartsAPollOrIsRefused := by
  intro s v
  refine ⟨fun hp => ⟨clearedSlots, ?_, clearedSlots_getElem⟩, fun hp => ?_⟩
  · exact execPoll_of_idle (State.busy_eq_false.2 hp)
  · exact execPoll_of_busy (State.busy_eq_true.2 hp)

/-- Settles O15: the fields of `State.resetUnit`, and the status predicates by them. -/
theorem resetReturnsToConstruction : Obligations.ResetReturnsToConstruction := by
  intro s v pp
  exact ⟨s.resetUnit, rfl, s.resetUnit_phase, s.resetUnit_startCount, s.resetUnit_result, rfl, rfl, rfl,
    s.resetUnit_variant, s.resetUnit_offers, s.resetUnit_held⟩

/-- Settles O16: each value is the one `State.reset` names. -/
theorem resetStateValues : Obligations.ResetStateValues :=
  ⟨rfl, rfl, rfl, fun _ => rfl⟩

/-- Settles O52: the reset state is idle and has returned nothing (`Inv.of_idle`). -/
theorem resetSatisfiesTheInvariant : Obligations.ResetSatisfiesTheInvariant := Inv.reset

end Sys2Proof.Machine

/-! Proofs for `spec/20_memory.md`: the walk reads the raw buffer and never writes it (R65), and every iteration of it
makes progress (R158). -/

namespace Sys2Proof.Machine

/-- Settles O34: the progress by `State.walkIter_cursor`, the raw buffer by what an iteration leaves alone
(`State.walkIter_walkOnly`). -/
theorem everyIterationMovesOn : Obligations.EveryIterationMovesOn := by
  intro s t h
  obtain ⟨hmin, hmax⟩ := State.walkIter_cursor h
  exact ⟨hmin, hmax, (State.walkIter_walkOnly h).raw⟩

end Sys2Proof.Machine

/-! SUPPORT and proofs for `spec/30_encoding.md`: key words as numbers, the rows of the opcode table as ranges of them,
and the decoder map by map (R80 to R87); one iteration of the walk by its WALK2 key (R85, R152), SAMPLE (R106), and held
events (R90). -/

namespace Sys2Proof

open Machine

/-! ### Words as numbers -/

theorem toNat_append_eq_add {m n : Nat} (x : BitVec m) (y : BitVec n) :
    (x ++ y).toNat = x.toNat * 2 ^ n + y.toNat := by
  rw [BitVec.toNat_append, ← Nat.shiftLeft_add_eq_or_of_lt y.isLt, Nat.shiftLeft_eq]

theorem toNat_extractLsb'_eq_div {m : Nat} (k n : Nat) (x : BitVec m) :
    (x.extractLsb' k n).toNat = x.toNat / 2 ^ k % 2 ^ n := by
  rw [BitVec.extractLsb'_toNat, Nat.shiftRight_eq_div_pow]

/-- A mask of the `n` highest of `n + k` bits clears the `k` lowest. -/
theorem and_topMask {n k w : Nat} (hw : w < 2 ^ (n + k)) :
    w &&& (2 ^ n - 1) <<< k = w / 2 ^ k * 2 ^ k := by
  have hlt : w >>> k < 2 ^ n := by
    rw [Nat.shiftRight_eq_div_pow]
    exact Nat.div_lt_of_lt_mul (by rwa [← pow_add, Nat.add_comm])
  rw [← Nat.shiftRight_eq_div_pow, ← Nat.shiftLeft_eq, ← Nat.mod_eq_of_lt hlt]
  refine Nat.eq_of_testBit_eq fun i => ?_
  by_cases hi : k ≤ i <;> simp [Nat.testBit_shiftLeft, hi, Bool.and_comm]

/-! ### The opcode table's rows (R80 to R87) -/

/-- A row whose fixed bits are the highest `n` takes the words that agree with its value in them. -/
theorem Row.hits_topBits {n k w v : Nat} {op : Op} {d : Bool} (hw : w < 2 ^ (n + k)) (hv : v % 2 ^ k = 0) :
    Row.hits ⟨op, (2 ^ n - 1) <<< k, v, d⟩ w = decide (w / 2 ^ k = v / 2 ^ k) := by
  obtain ⟨u, rfl⟩ := Nat.dvd_of_mod_eq_zero hv
  have hk : 0 < 2 ^ k := by positivity
  rw [Row.hits, and_topMask hw, Nat.mul_div_cancel_left u hk, Nat.mul_comm (2 ^ k), Bool.eq_iff_iff, beq_iff_eq,
    Nat.mul_left_inj hk.ne', decide_eq_true_iff]

theorem rowFor_eq (rows : List Row) (w : Nat) :
    rowFor rows w = ((rows.find? fun r => !r.isDefault && r.hits w).or
      (rows.find? fun r => r.isDefault && r.hits w)).map Row.op := by
  unfold rowFor
  split <;> rename_i h <;> simp only [h, Option.some_or, Option.none_or, Option.map_some]

theorem find?_cons_eq_ite {α : Type} (p : α → Bool) (a : α) (l : List α) :
    (a :: l).find? p = if p a then some a else l.find? p := by
  cases h : p a <;> simp [h]

theorem ite_option_or {α : Type} (c : Prop) [Decidable c] (x y z : Option α) :
    (if c then x else y).or z = if c then x.or z else y.or z :=
  apply_ite (Option.or · z) c x y

/-- The BYTEKEY rows as the words they take (R81 to R84). -/
theorem rowFor_byteKeyRows {w : Nat} (hw : w < 2 ^ 15) :
    rowFor byteKeyRows w =
      if w = 0x45A then some .ls0 else if w = 0x5A5 then some .ls1
      else if w = 0x600 then some .ls2 else if w = 0x7C0 then some .ls3
      else if w / 256 = 8 then some .lspd0 else if w / 256 = 9 then some .lspd1
      else if w / 1024 = 3 then some .lbody
      else if w = 0x14FA then some .ps0 else if w = 0x15A0 then some .ps1
      else if w / 1024 = 7 then some .pfill
      else if w / 1024 = 1 then some .lmiss
      else if w / 512 = 10 then some .pmiss
      else none := by
  have h15 {op v d} : Row.hits ⟨op, 0b111111111111111, v, d⟩ w = decide (w = v) := by
    simpa using Row.hits_topBits (n := 15) (k := 0) hw (Nat.mod_one v)
  have h7 {op v d} (hv : v % 256 = 0) : Row.hits ⟨op, 0b111111100000000, v, d⟩ w = decide (w / 256 = v / 256) :=
    Row.hits_topBits (n := 7) (k := 8) hw hv
  have h6 {op v d} (hv : v % 512 = 0) : Row.hits ⟨op, 0b111111000000000, v, d⟩ w = decide (w / 512 = v / 512) :=
    Row.hits_topBits (n := 6) (k := 9) hw hv
  have h5 {op v d} (hv : v % 1024 = 0) : Row.hits ⟨op, 0b111110000000000, v, d⟩ w = decide (w / 1024 = v / 1024) :=
    Row.hits_topBits (n := 5) (k := 10) hw hv
  simp [rowFor_eq, byteKeyRows, find?_cons_eq_ite, h15, h7, h6, h5, ite_option_or, apply_ite (Option.map Row.op)]

/-- The WALK1 rows as the words they take (R85). -/
theorem rowFor_walk1Rows {w : Nat} (hw : w < 2 ^ 16) :
    rowFor walk1Rows w =
      if w / 32 = 0b11111010101 then some .idxdecA0Bf
      else if w / 32 = 0b11111010110 then some .idxdecC0Df
      else if w / 16 = 0b111110101110 then some .idxdecE0Ef
      else if w / 8 = 0b1111101011110 then some .idxdecF0F7
      else if w / 2 = 0b111110101111100 then some .idxdecF8F9
      else some .idxdecNone := by
  have h11 {op v d} (hv : v % 32 = 0) : Row.hits ⟨op, 0b1111111111100000, v, d⟩ w = decide (w / 32 = v / 32) :=
    Row.hits_topBits (n := 11) (k := 5) hw hv
  have h12 {op v d} (hv : v % 16 = 0) : Row.hits ⟨op, 0b1111111111110000, v, d⟩ w = decide (w / 16 = v / 16) :=
    Row.hits_topBits (n := 12) (k := 4) hw hv
  have h13 {op v d} (hv : v % 8 = 0) : Row.hits ⟨op, 0b1111111111111000, v, d⟩ w = decide (w / 8 = v / 8) :=
    Row.hits_topBits (n := 13) (k := 3) hw hv
  have h15 {op v d} (hv : v % 2 = 0) : Row.hits ⟨op, 0b1111111111111110, v, d⟩ w = decide (w / 2 = v / 2) :=
    Row.hits_topBits (n := 15) (k := 1) hw hv
  have h0 {op d} : Row.hits ⟨op, 0, 0, d⟩ w = true := by simp [Row.hits]
  simp [rowFor_eq, walk1Rows, find?_cons_eq_ite, h11, h12, h13, h15, h0, ite_option_or, apply_ite (Option.map Row.op),
    -Option.or_some, -Option.map_some]

/-! ### The BYTEKEY map (R80 to R84) -/

theorem byteKeyWord_toNat (v : Variant) (p : Phase) (cc : BitVec 2) (b : Byte) :
    (byteKeyWord v p cc b).toNat = v.code.toNat * 4096 + p.code.toNat * 1024 + cc.toNat * 256 + b.toNat := by
  simp only [byteKeyWord, toNat_append_eq_add, BitVec.toNat_ofNat]
  omega

theorem Variant.code_ofCode (v : BitVec 1) : (Variant.ofCode v).code = v := by
  revert v; decide

theorem Phase.code_ofCode (p : BitVec 2) : (Phase.ofCode p).code = p := by
  revert p; decide

/-- Every word of kind `00` is the key of a byte in some variant, phase and sub-state. -/
theorem exists_byteKeyWord {w : BitVec 15} (hk : w.extractLsb' 13 2 = 0) :
    ∃ v p cc b, w = byteKeyWord v p cc b := by
  refine ⟨Variant.ofCode (w.extractLsb' 12 1), Phase.ofCode (w.extractLsb' 10 2), w.extractLsb' 8 2,
    w.extractLsb' 0 8, BitVec.eq_of_toNat_eq ?_⟩
  rw [byteKeyWord_toNat, Variant.code_ofCode, Phase.code_ofCode]
  have hw := w.isLt
  simp only [BitVec.toNat_eq, toNat_extractLsb'_eq_div] at hk ⊢
  bv_omega

theorem decode_byteKey_ofOtherKind {w : BitVec 15} (hk : w.extractLsb' 13 2 ≠ 0) :
    decode (.byteKey w) = .error .noByteKind := by
  simp only [decode, decodeByteKey, if_pos hk]

/-! The table's rows, map by map: variant and phase are the five highest bits of a word. -/

section Map
variable {w : Nat} (hw : w < 2 ^ 15)
include hw

theorem rowFor_legacySearch (h : w / 1024 = 1) :
    rowFor byteKeyRows w =
      if w = 0x45A then some .ls0 else if w = 0x5A5 then some .ls1
      else if w = 0x600 then some .ls2 else if w = 0x7C0 then some .ls3 else some .lmiss := by
  rw [rowFor_byteKeyRows hw]
  simp (disch := omega) only [if_pos, if_neg]

theorem rowFor_legacySpeed (h : w / 1024 = 2) :
    rowFor byteKeyRows w = if w / 256 = 8 then some .lspd0 else if w / 256 = 9 then some .lspd1 else none := by
  rw [rowFor_byteKeyRows hw]
  simp (disch := omega) only [if_neg]

theorem rowFor_legacyFill (h : w / 1024 = 3) : rowFor byteKeyRows w = some .lbody := by
  rw [rowFor_byteKeyRows hw]
  simp (disch := omega) only [if_pos, if_neg]

theorem rowFor_packetSearch (h : w / 1024 = 5) :
    rowFor byteKeyRows w =
      if w = 0x14FA then some .ps0 else if w = 0x15A0 then some .ps1
      else if w / 512 = 10 then some .pmiss else none := by
  rw [rowFor_byteKeyRows hw]
  simp (disch := omega) only [if_neg]

theorem rowFor_packetFill (h : w / 1024 = 7) : rowFor byteKeyRows w = some .pfill := by
  rw [rowFor_byteKeyRows hw]
  simp (disch := omega) only [if_pos, if_neg]

/-- No row takes a byte in IDLE, a byte of the Packetized variant in SPEED, or a word of a kind other than `00`. -/
theorem rowFor_noMap (h : w / 1024 = 0 ∨ w / 1024 = 4 ∨ w / 1024 = 6 ∨ 8 ≤ w / 1024) :
    rowFor byteKeyRows w = none := by
  rw [rowFor_byteKeyRows hw]
  simp (disch := omega) only [if_neg]

end Map

/-- On a byte's key the decoder answers the table's row, cell by cell of variant and phase. -/
theorem decode_byteKeyWord_op (v : Variant) (p : Phase) (cc : BitVec 2) (b : Byte) :
    (decode (.byteKey (byteKeyWord v p cc b))).toOption.map Instr.op =
      rowFor byteKeyRows (byteKeyWord v p cc b).toNat := by
  have hlt := (byteKeyWord v p cc b).isLt
  have hw := byteKeyWord_toNat v p cc b
  rw [decode_byteKeyWord]
  generalize (byteKeyWord v p cc b).toNat = w at hw hlt ⊢
  cases v <;> cases p <;> simp only [Variant.code, Phase.code] at hw
  case legacy.search =>
    have h0 : w = 0x45A ↔ cc = 0 ∧ b = 0x5A := by bv_omega
    have h1 : w = 0x5A5 ↔ cc = 1 ∧ b = 0xA5 := by bv_omega
    have h2 : w = 0x600 ↔ cc = 2 ∧ b = 0x00 := by bv_omega
    have h3 : w = 0x7C0 ↔ cc = 3 ∧ b = 0xC0 := by bv_omega
    simp only [rowFor_legacySearch hlt (by bv_omega), h0, h1, h2, h3, decodeLegacySearch]
    split_ifs <;> rfl
  case legacy.speed =>
    have h0 : w / 256 = 8 ↔ cc = 0 := by bv_omega
    have h1 : w / 256 = 9 ↔ cc = 1 := by bv_omega
    simp only [rowFor_legacySpeed hlt (by bv_omega), h0, h1]
    split_ifs <;> rfl
  case legacy.fill =>
    rw [rowFor_legacyFill hlt (by bv_omega)]
    rfl
  case packetized.search =>
    have hlow := toNat_extractLsb'_eq_div 0 1 cc
    have hhigh := toNat_extractLsb'_eq_div 1 1 cc
    have hc : w / 512 = 10 ↔ cc.extractLsb' 1 1 = 0 := by bv_omega
    have h0 : w = 0x14FA ↔ cc.extractLsb' 1 1 = 0 ∧ cc.extractLsb' 0 1 = 0 ∧ b = 0xFA := by bv_omega
    have h1 : w = 0x15A0 ↔ cc.extractLsb' 1 1 = 0 ∧ cc.extractLsb' 0 1 = 1 ∧ b = 0xA0 := by bv_omega
    simp only [rowFor_packetSearch hlt (by bv_omega), h0, h1, hc, decodePacketSearch]
    by_cases hc : cc.extractLsb' 1 1 = 0
    · simp only [hc, true_and, if_true]
      split_ifs <;> rfl
    · simp only [hc, false_and, if_false]
      rfl
  case packetized.fill =>
    rw [rowFor_packetFill hlt (by bv_omega)]
    rfl
  all_goals
    rw [rowFor_noMap hlt (by bv_omega)]
    rfl

/-- Settles O3: a word of kind `00` is a byte's key (`decode_byteKeyWord_op`), and no row takes a word of another
kind. -/
theorem byteKeysFollowTheTable : Obligations.ByteKeysFollowTheTable := by
  intro w
  by_cases hk : w.extractLsb' 13 2 = 0
  · obtain ⟨v, p, cc, b, rfl⟩ := exists_byteKeyWord hk
    exact decode_byteKeyWord_op v p cc b
  · rw [decode_byteKey_ofOtherKind hk, rowFor_noMap w.isLt]
    · rfl
    · simp only [BitVec.toNat_eq, toNat_extractLsb'_eq_div] at hk
      bv_omega

/-! ### The WALK1 map (R85) -/

/-- The candidate test's patterns as the words they take. -/
theorem decodeWalk1_eq (w : BitVec 16) :
    decodeWalk1 w =
      if w.toNat / 32 = 0b11111010101 then .idxdecA0Bf ((w.extractLsb' 0 8).extractLsb' 0 5)
      else if w.toNat / 32 = 0b11111010110 then .idxdecC0Df ((w.extractLsb' 0 8).extractLsb' 0 5)
      else if w.toNat / 16 = 0b111110101110 then .idxdecE0Ef ((w.extractLsb' 0 8).extractLsb' 0 4)
      else if w.toNat / 8 = 0b1111101011110 then .idxdecF0F7 ((w.extractLsb' 0 8).extractLsb' 0 3)
      else if w.toNat / 2 = 0b111110101111100 then .idxdecF8F9 ((w.extractLsb' 0 8).extractLsb' 0 1)
      else .idxdecNone (w.extractLsb' 8 8) (w.extractLsb' 0 8) := by
  have hw := w.isLt
  have hh := toNat_extractLsb'_eq_div 8 8 w
  have hx := toNat_extractLsb'_eq_div 0 8 w
  have hx5 := toNat_extractLsb'_eq_div 5 3 (w.extractLsb' 0 8)
  have hx4 := toNat_extractLsb'_eq_div 4 4 (w.extractLsb' 0 8)
  have hx3 := toNat_extractLsb'_eq_div 3 5 (w.extractLsb' 0 8)
  have hx1 := toNat_extractLsb'_eq_div 1 7 (w.extractLsb' 0 8)
  rw [decodeWalk1]
  generalize w.extractLsb' 8 8 = h at hh
  generalize w.extractLsb' 0 8 = x at hx hx5 hx4 hx3 hx1
  have hA0 : h = 0xFA ∧ x.extractLsb' 5 3 = 0b101 ↔ w.toNat / 32 = 0b11111010101 := by bv_omega
  have hC0 : h = 0xFA ∧ x.extractLsb' 5 3 = 0b110 ↔ w.toNat / 32 = 0b11111010110 := by bv_omega
  have hE0 : h = 0xFA ∧ x.extractLsb' 4 4 = 0b1110 ↔ w.toNat / 16 = 0b111110101110 := by bv_omega
  have hF0 : h = 0xFA ∧ x.extractLsb' 3 5 = 0b11110 ↔ w.toNat / 8 = 0b1111101011110 := by bv_omega
  have hF8 : h = 0xFA ∧ x.extractLsb' 1 7 = 0b1111100 ↔ w.toNat / 2 = 0b111110101111100 := by bv_omega
  simp only [hA0, hC0, hE0, hF0, hF8]

/-- The 90 candidate pairs are the words from `FA A0` to `FA F9`. -/
theorem isCandidatePair_iff (w : BitVec 16) :
    Instr.isCandidatePair (w.extractLsb' 8 8) (w.extractLsb' 0 8) = true ↔ 0xFAA0 ≤ w.toNat ∧ w.toNat ≤ 0xFAF9 := by
  have hw := w.isLt
  have hh := toNat_extractLsb'_eq_div 8 8 w
  have hx := toNat_extractLsb'_eq_div 0 8 w
  simp only [Instr.isCandidatePair, Bool.and_eq_true, beq_iff_eq, decide_eq_true_iff]
  bv_omega

theorem decodeWalk1_none {h x : Byte} (hc : Instr.isCandidatePair h x = false) :
    decodeWalk1 (h ++ x) = .idxdecNone h x := by
  have hhi : (h ++ x).extractLsb' 8 8 = h := BitVec.extractLsb'_append_eq_left
  have hlo : (h ++ x).extractLsb' 0 8 = x := BitVec.extractLsb'_append_eq_right
  have hout : ¬(0xFAA0 ≤ (h ++ x).toNat ∧ (h ++ x).toNat ≤ 0xFAF9) := by
    rw [← isCandidatePair_iff, hhi, hlo, hc]
    exact Bool.false_ne_true
  rw [decodeWalk1_eq, hhi, hlo]
  simp (disch := omega) only [if_neg]

/-! ### The table's words (R80 to R87) -/

/-- Settles O4: the 32 EVENT words and the four WALK2 words one by one, the WALK1 words by the ranges that the decoder
(`decodeWalk1_eq`) and the table (`rowFor_walk1Rows`) give each row. -/
theorem eventAndWalkKeysFollowTheTable : Obligations.EventAndWalkKeysFollowTheTable := by
  refine ⟨by decide, fun w => ?_, by decide⟩
  rw [rowFor_walk1Rows w.isLt, decode, decodeWalk1_eq]
  split_ifs <;> rfl

/-- Settles O5, pair by pair of the four maps' rows. -/
theorem noTwoFixedRowsOverlap : Obligations.NoTwoFixedRowsOverlap := by
  unfold Obligations.NoTwoFixedRowsOverlap
  decide

/-- Settles O6, by running the decoder on the ten words. -/
theorem specWordsDecode : Obligations.SpecWordsDecode := by
  unfold Obligations.SpecWordsDecode
  decide

/-! ### The matchers' maps (R81, R83) -/

theorem isLegacyMatch_iff {cc : BitVec 2} {b : Byte} :
    Instr.isLegacyMatch cc b = true ↔
      (cc = 0 ∧ b = 0x5A) ∨ (cc = 1 ∧ b = 0xA5) ∨ (cc = 2 ∧ b = 0x00) ∨ (cc = 3 ∧ b = 0xC0) := by
  obtain rfl | rfl | rfl | rfl := (by decide : ∀ c : BitVec 2, c = 0 ∨ c = 1 ∨ c = 2 ∨ c = 3) cc <;>
    simp [Instr.isLegacyMatch, Config.lsync]

theorem isPacketMatch_iff {c : BitVec 1} {b : Byte} :
    Instr.isPacketMatch c b = true ↔ (c = 0 ∧ b = 0xFA) ∨ (c = 1 ∧ b = 0xA0) := by
  simp [Instr.isPacketMatch]

theorem decodeLegacySearch_miss {cc : BitVec 2} {b : Byte} (h : Instr.isLegacyMatch cc b = false) :
    decodeLegacySearch cc b = .lmiss cc b := by
  rw [← Bool.not_eq_true, isLegacyMatch_iff] at h
  simp only [not_or] at h
  obtain ⟨h0, h1, h2, h3⟩ := h
  rw [decodeLegacySearch, if_neg h0, if_neg h1, if_neg h2, if_neg h3]

theorem decodePacketSearch_miss {c : BitVec 1} {b : Byte} (h : Instr.isPacketMatch c b = false) :
    decodePacketSearch c b = .pmiss c b := by
  rw [← Bool.not_eq_true, isPacketMatch_iff, not_or] at h
  rw [decodePacketSearch, if_neg h.1, if_neg h.2]

/-! ### What the maps answer (R80, R87) -/

/-- The operation is well-formed, and the table writes its row in this format. -/
def Instr.isOf (i : Instr) (f : Format) : Prop := i.wellFormed = true ∧ i.op.format = f

theorem Instr.isOf.ofKey {i : Instr} {f : Format} {k : Key} (hi : i.isOf f) (hk : k.format? = some f) :
    i.wellFormed = true ∧ k.format? = some i.op.format :=
  ⟨hi.1, hk.trans (congrArg some hi.2.symm)⟩

theorem Phase.ofCode_ne_idle {p : BitVec 2} (h : p ≠ 0) : Phase.ofCode p ≠ .idle := by
  revert p; decide

theorem decodeEvent_isOf {w : BitVec 5} {i : Instr} (h : decodeEvent w = .ok i) : i.isOf .event := by
  simp only [decodeEvent] at h
  split_ifs at h with _ _ _ hp
  · cases h; exact ⟨rfl, rfl⟩
  · cases h; exact ⟨bne_iff_ne.2 (Phase.ofCode_ne_idle hp), rfl⟩
  · cases h; exact ⟨rfl, rfl⟩

theorem decodeLegacySearch_isOf (cc : BitVec 2) (b : Byte) : (decodeLegacySearch cc b).isOf .byteKey := by
  cases hm : Instr.isLegacyMatch cc b with
  | false =>
    rw [decodeLegacySearch_miss hm]
    exact ⟨by rw [Instr.wellFormed, hm]; rfl, rfl⟩
  | true =>
    obtain ⟨rfl, rfl⟩ | ⟨rfl, rfl⟩ | ⟨rfl, rfl⟩ | ⟨rfl, rfl⟩ := isLegacyMatch_iff.1 hm <;> exact ⟨rfl, rfl⟩

theorem decodePacketSearch_isOf (c : BitVec 1) (b : Byte) : (decodePacketSearch c b).isOf .byteKey := by
  cases hm : Instr.isPacketMatch c b with
  | false =>
    rw [decodePacketSearch_miss hm]
    exact ⟨by rw [Instr.wellFormed, hm]; rfl, rfl⟩
  | true =>
    obtain ⟨rfl, rfl⟩ | ⟨rfl, rfl⟩ := isPacketMatch_iff.1 hm <;> exact ⟨rfl, rfl⟩

theorem decodeByteKey_isOf {w : BitVec 15} {i : Instr} (h : decode (.byteKey w) = .ok i) : i.isOf .byteKey := by
  by_cases hk : w.extractLsb' 13 2 = 0
  · obtain ⟨v, p, cc, b, rfl⟩ := exists_byteKeyWord hk
    rw [decode_byteKeyWord] at h
    cases v <;> cases p <;> simp only [reduceCtorEq] at h
    case legacy.search => cases h; exact decodeLegacySearch_isOf cc b
    case legacy.speed => split_ifs at h <;> cases h <;> exact ⟨rfl, rfl⟩
    case packetized.search =>
      split_ifs at h
      cases h
      exact decodePacketSearch_isOf _ b
    case legacy.fill | packetized.fill => cases h; exact ⟨rfl, rfl⟩
  · cases (decode_byteKey_ofOtherKind hk).symm.trans h

theorem decodeWalk1_isOf (w : BitVec 16) : (decodeWalk1 w).isOf .walk1 := by
  have hc := isCandidatePair_iff w
  rw [decodeWalk1_eq]
  split_ifs
  case neg =>
    have hn : Instr.isCandidatePair (w.extractLsb' 8 8) (w.extractLsb' 0 8) = false := by
      rw [← Bool.not_eq_true, hc]
      omega
    exact ⟨by rw [Instr.wellFormed, hn]; rfl, rfl⟩
  all_goals exact ⟨rfl, rfl⟩

theorem decodeWalk2_isOf (w : BitVec 2) : (decodeWalk2 w).isOf .walk2 := by
  unfold decodeWalk2
  split_ifs <;> exact ⟨rfl, rfl⟩

theorem decodeAngle9_isOf {w : BitVec 9} {i : Instr} (h : decodeAngle9 w = .ok i) : i.isOf .angle9 := by
  unfold decodeAngle9 at h
  split_ifs at h with hi
  cases h
  exact ⟨decide_eq_true hi, rfl⟩

theorem decodeSubop_isOf {f : SubOp} {i : Instr} (h : decodeSubop f = .ok i) : i.isOf .subop := by
  cases f with
  | slotwr a rec =>
    simp only [decodeSubop] at h
    split_ifs at h with ha
    cases h
    exact ⟨decide_eq_true ha, rfl⟩
  | ldecode | walk | reinit | complete => cases h; exact ⟨rfl, rfl⟩

/-- Settles O2, format by format. -/
theorem decodedOperationsAreWellFormed : Obligations.DecodedOperationsAreWellFormed := by
  intro k i h
  cases k with
  | event w => exact (decodeEvent_isOf h).ofKey rfl
  | byteKey w => exact (decodeByteKey_isOf h).ofKey rfl
  | walk1 w => cases h; exact (decodeWalk1_isOf w).ofKey rfl
  | walk2 w => cases h; exact (decodeWalk2_isOf w).ofKey rfl
  | sample32 f w => cases h; cases f <;> exact ⟨rfl, rfl⟩
  | pair16 f w => cases h; cases f <;> exact ⟨rfl, rfl⟩
  | angle9 w => exact (decodeAngle9_isOf h).ofKey rfl
  | subop f => exact (decodeSubop_isOf h).ofKey rfl
  | noFormat n w => cases h

/-! ### Decoding what the encoder writes -/

theorem decodeWalk1_A0Bf (p : BitVec 5) : decodeWalk1 (0xFA#8 ++ 0b101#3 ++ p) = .idxdecA0Bf p := by
  revert p; decide

theorem decodeWalk1_C0Df (p : BitVec 5) : decodeWalk1 (0xFA#8 ++ 0b110#3 ++ p) = .idxdecC0Df p := by
  revert p; decide

theorem decodeWalk1_E0Ef (p : BitVec 4) : decodeWalk1 (0xFA#8 ++ 0b1110#4 ++ p) = .idxdecE0Ef p := by
  revert p; decide

theorem decodeWalk1_F0F7 (p : BitVec 3) : decodeWalk1 (0xFA#8 ++ 0b11110#5 ++ p) = .idxdecF0F7 p := by
  revert p; decide

theorem decodeWalk1_F8F9 (p : BitVec 1) : decodeWalk1 (0xFA#8 ++ 0b1111100#7 ++ p) = .idxdecF8F9 p := by
  revert p; decide

/-- The four bytes of a SAMPLE32 word (R77). -/
theorem extract_fourBytes (b0 b1 b2 b3 : Byte) :
    (b3 ++ b2 ++ b1 ++ b0).extractLsb' 0 8 = b0 ∧ (b3 ++ b2 ++ b1 ++ b0).extractLsb' 8 8 = b1 ∧
    (b3 ++ b2 ++ b1 ++ b0).extractLsb' 16 8 = b2 ∧ (b3 ++ b2 ++ b1 ++ b0).extractLsb' 24 8 = b3 := by
  simp only [← BitVec.toNat_inj, toNat_append_eq_add, toNat_extractLsb'_eq_div]
  omega

theorem extract_lowBytes (h : BitVec 16) (b0 b1 : Byte) :
    (h ++ b1 ++ b0).extractLsb' 0 8 = b0 ∧ (h ++ b1 ++ b0).extractLsb' 8 8 = b1 := by
  simp only [← BitVec.toNat_inj, toNat_append_eq_add, toNat_extractLsb'_eq_div]
  omega

theorem extract_highBytes (l : BitVec 16) (b2 b3 : Byte) :
    (b3 ++ b2 ++ l).extractLsb' 16 8 = b2 ∧ (b3 ++ b2 ++ l).extractLsb' 24 8 = b3 := by
  simp only [← BitVec.toNat_inj, toNat_append_eq_add, toNat_extractLsb'_eq_div]
  omega

/-- The sub-state of the Packetized variant is the low bit alone (R80). -/
theorem decode_packetSearchKey (c : BitVec 1) (b : Byte) :
    decode (.byteKey (byteKeyWord .packetized .search (0#1 ++ c) b)) = .ok (decodePacketSearch c b) := by
  have hhigh : ∀ c : BitVec 1, (0#1 ++ c).extractLsb' 1 1 = 0 := by decide
  rw [decode_byteKeyWord]
  simp only [hhigh, BitVec.extractLsb'_append_eq_right, if_true]

/-- Settles O1, by cases on the operation. -/
theorem decodeOfEncodeIsIdentity : Obligations.DecodeOfEncodeIsIdentity := by
  intro i hi
  cases i with
  | poll v => exact decode_pollWord v .idle
  | fail v pp => exact decode_failWord v pp (bne_iff_ne.1 hi)
  | reset v pp => exact decode_resetWord v pp
  | ls0 => exact decode_byteKeyWord .legacy .search 0 0x5A
  | ls1 => exact decode_byteKeyWord .legacy .search 1 0xA5
  | ls2 => exact decode_byteKeyWord .legacy .search 2 0x00
  | ls3 => exact decode_byteKeyWord .legacy .search 3 0xC0
  | lmiss cc b =>
    have hm : Instr.isLegacyMatch cc b = false := by simpa [Instr.wellFormed] using hi
    exact (decode_byteKeyWord .legacy .search cc b).trans (congrArg Except.ok (decodeLegacySearch_miss hm))
  | lspd0 b => exact decode_byteKeyWord .legacy .speed 0 b
  | lspd1 b => exact decode_byteKeyWord .legacy .speed 1 b
  | lbody b => exact decode_byteKeyWord .legacy .fill 0 b
  | ps0 => exact decode_packetSearchKey 0 0xFA
  | ps1 => exact decode_packetSearchKey 1 0xA0
  | pmiss c b =>
    have hm : Instr.isPacketMatch c b = false := by simpa [Instr.wellFormed] using hi
    exact (decode_packetSearchKey c b).trans (congrArg Except.ok (decodePacketSearch_miss hm))
  | pfill b => exact decode_byteKeyWord .packetized .fill 0 b
  | idxdecA0Bf p => exact congrArg Except.ok (decodeWalk1_A0Bf p)
  | idxdecC0Df p => exact congrArg Except.ok (decodeWalk1_C0Df p)
  | idxdecE0Ef p => exact congrArg Except.ok (decodeWalk1_E0Ef p)
  | idxdecF0F7 p => exact congrArg Except.ok (decodeWalk1_F0F7 p)
  | idxdecF8F9 p => exact congrArg Except.ok (decodeWalk1_F8F9 p)
  | idxdecNone h x =>
    have hm : Instr.isCandidatePair h x = false := by simpa [Instr.wellFormed] using hi
    exact congrArg Except.ok (decodeWalk1_none hm)
  | wskip | wcorrupt | waccept => rfl
  | sample b0 b1 b2 b3 =>
    obtain ⟨h0, h1, h2, h3⟩ := extract_fourBytes b0 b1 b2 b3
    simp only [encode, decode, decodeSample32, h0, h1, h2, h3]
  | range b0 b1 =>
    obtain ⟨h0, h1⟩ := extract_lowBytes 0#16 b0 b1
    rw [encode, decode, decodeSample32, h0, h1]
  | tooclose b1 => rw [encode, decode, decodeSample32, (extract_lowBytes 0#16 0#8 b1).2]
  | noreturn b1 => rw [encode, decode, decodeSample32, (extract_lowBytes 0#16 0#8 b1).2]
  | intens b2 b3 =>
    obtain ⟨h2, h3⟩ := extract_highBytes 0#16 b2 b3
    rw [encode, decode, decodeSample32, h2, h3]
  | le16 lo hi | speed16 lo hi =>
    rw [encode, decode, decodePair16, BitVec.extractLsb'_append_eq_right, BitVec.extractLsb'_append_eq_left]
  | angle idx o =>
    rw [encode, decode, decodeAngle9, BitVec.extractLsb'_append_eq_right, BitVec.extractLsb'_append_eq_left,
      if_pos (of_decide_eq_true hi)]
  | slotwr a rec => exact if_pos (of_decide_eq_true hi)
  | ldecode | walk | reinit | complete => rfl

end Sys2Proof

namespace Sys2Proof.Machine

/-! ### Held events (R90) -/

/-- Settles O11 (`step_of_held`). -/
theorem heldEventsComeFirst : Obligations.HeldEventsComeFirst := by
  intro s e rest i hp hh hd
  exact (step_of_held (State.busy_eq_true.2 hp) hh).trans (State.runKey_ok hd)

/-! ### The candidate test's rows (R85, R108) -/

theorem setWidth_eq_ofNat {k : Nat} (p : BitVec k) : p.zeroExtend 7 = BitVec.ofNat 7 p.toNat :=
  (BitVec.ofNat_toNat 7 p).symm

/-- The index of a pattern: its base plus its letters. -/
theorem add_setWidth_eq_ofNat {k : Nat} (n : Nat) (p : BitVec k) :
    BitVec.ofNat 7 n + p.zeroExtend 7 = BitVec.ofNat 7 (n + p.toNat) := by
  rw [setWidth_eq_ofNat, BitVec.ofNat_add]

theorem candidate_next {s : State} {a b : BitVec 7} (h : a = b) :
    Host.Outcome.next (φ := Fault) (ρ := Refusal) (s.setCandidate (some a)) =
      .next { s with locals := { s.locals with candidate := true, idx := b } } := by
  subst h; rfl

/-- Settles O8, row by row. -/
theorem candidateRowsComplete : Obligations.CandidateRowsComplete := by
  intro s
  exact ⟨fun p => candidate_next (setWidth_eq_ofNat p), fun p => candidate_next (add_setWidth_eq_ofNat 32 p),
    fun p => candidate_next (add_setWidth_eq_ofNat 64 p), fun p => candidate_next (add_setWidth_eq_ofNat 80 p),
    fun p => candidate_next (add_setWidth_eq_ofNat 88 p), fun _ _ => rfl⟩

/-! ### SAMPLE (R77, R79, R106) -/

theorem getLsbD_eq_true_iff {n : Nat} (x : BitVec n) (i : Nat) : x.getLsbD i = true ↔ x.toNat / 2 ^ i % 2 = 1 := by
  rw [← BitVec.testBit_toNat, Nat.testBit_eq_decide_div_mod_eq, decide_eq_true_iff]

theorem le16_toNat (lo hi : Byte) : (Operands.le16 lo hi).toNat = lo.toNat + 256 * hi.toNat := by
  rw [Operands.le16, toNat_append_eq_add]
  omega

theorem range_toNat (b0 b1 : Byte) : (Operands.range b0 b1).toNat = b0.toNat + 256 * (b1.toNat % 64) := by
  rw [Operands.range, toNat_extractLsb'_eq_div, le16_toNat]
  omega

theorem sample_decodesFrom (b0 b1 b2 b3 : Byte) : (Operands.sample b0 b1 b2 b3).decodesFrom b0 b1 b2 b3 :=
  ⟨range_toNat b0 b1, getLsbD_eq_true_iff b1 6, getLsbD_eq_true_iff b1 7, le16_toNat b2 b3⟩

/-- Settles O41 (`sample_decodesFrom`). -/
theorem sampleDecodesTheFourBytes : Obligations.SampleDecodesTheFourBytes := by
  intro b0 b1 b2 b3 s
  exact ⟨Operands.sample b0 b1 b2 b3, rfl, sample_decodesFrom b0 b1 b2 b3⟩

/-! ### One iteration of the walk, by its WALK2 key (R85, R152 to R156) -/

/-- The candidate test answers an index on the 90 pairs `FA A0` to `FA F9`, and on no other (R108). -/
theorem idxdec_eq_some_iff {h x : Byte} {idx : BitVec 7} :
    Operands.idxdec h x = some idx ↔ (h = 0xFA ∧ 160 ≤ x.toNat ∧ x.toNat ≤ 249) ∧ idx.toNat + 160 = x.toNat := by
  simp only [Operands.idxdec, Config.idxMax]
  split_ifs with hh hx
  · exact iff_of_false not_false fun hc => hh hc.1.1
  · rw [Option.some_inj]
    bv_omega
  · exact iff_of_false not_false fun hc => hx (by omega)

theorem idxdec_eq_none_iff {h x : Byte} :
    Operands.idxdec h x = none ↔ ¬(h = 0xFA ∧ 160 ≤ x.toNat ∧ x.toNat ≤ 249) := by
  simp only [Operands.idxdec, Config.idxMax]
  split_ifs with hh hx
  · exact iff_of_true rfl fun hc => hh hc.1
  · exact iff_of_false not_false fun hc => hc ⟨not_not.1 hh, by omega⟩
  · exact iff_of_true rfl fun hc => hx (by omega)

/-- The scan answers the least offset of a premature header (R155). -/
theorem State.firstHeader_least {s : State} {i k : Nat} (h : s.firstHeader i scanOffsets = .ok (some k)) :
    (2 ≤ k ∧ k ≤ 21) ∧ s.rawRead (i + k) = .ok Config.hdr ∧
      ∀ m, 2 ≤ m → m < k → ∃ b, s.rawRead (i + m) = .ok b ∧ b ≠ Config.hdr := by
  obtain ⟨before, after, hks, hk, hbefore⟩ := State.firstHeader_some h
  have hk21 : 2 ≤ k ∧ k ≤ 21 := mem_scanOffsets.1 (by simp [hks])
  refine ⟨hk21, hk, fun m h2 hm => hbefore m ?_⟩
  have hrising : (k :: after).Pairwise (· < ·) :=
    (List.pairwise_append.1 (hks ▸ List.pairwise_lt_range' : (before ++ k :: after).Pairwise (· < ·))).2.1
  have hmem : m ∈ before ++ k :: after := hks ▸ mem_scanOffsets.2 ⟨h2, by omega⟩
  refine (List.mem_append.1 hmem).resolve_right fun hm' => ?_
  rcases List.mem_cons.1 hm' with rfl | hm'
  · exact absurd hm (lt_irrefl _)
  · exact absurd hm (Nat.lt_asymm (List.rel_of_pairwise_cons hrising hm'))

theorem State.holdsBytes.rawRead {s : State} {f : Nat → Byte} {n j : Nat} (hf : s.holdsBytes n f)
    (hn : n ≤ s.rawLen) (hj : j < n) : s.rawRead j = .ok (f j) :=
  State.rawRead_ok.2 ⟨hj.trans_le hn, hf j hj⟩

section Block
variable {s : State} {f : Nat → Byte} (hf : s.holdsBytes 1980 f) (hlen : 1980 ≤ s.rawLen) {i : Nat} (hi : i + 22 ≤ 1980)
include hf hlen hi

/-- A premature header that the scan answers is the first one among the packet's bytes. -/
theorem State.holdsBytes.premature {k : Nat} (h : s.firstHeader i scanOffsets = .ok (some k)) :
    2 ≤ k ∧ k ≤ 21 ∧ f (i + k) = 0xFA ∧ ∀ m, 2 ≤ m → m < k → f (i + m) ≠ 0xFA := by
  obtain ⟨⟨h2, h21⟩, hk, hleast⟩ := State.firstHeader_least h
  refine ⟨h2, h21, Except.ok.inj ((hf.rawRead hlen (by omega)).symm.trans hk), fun m hm2 hmk => ?_⟩
  obtain ⟨b, hb, hne⟩ := hleast m hm2 hmk
  exact Except.ok.inj ((hf.rawRead hlen (by omega)).symm.trans hb) ▸ hne

/-- Where the scan answers none there is no header byte among the packet's bytes. -/
theorem State.holdsBytes.notPremature (h : s.firstHeader i scanOffsets = .ok none) :
    ¬∃ k, 2 ≤ k ∧ k ≤ 21 ∧ f (i + k) = 0xFA := by
  rintro ⟨k, h2, h21, hfk⟩
  obtain ⟨b, hb, hne⟩ := State.firstHeader_none h k (mem_scanOffsets.2 ⟨h2, h21⟩)
  exact hne ((Except.ok.inj ((hf.rawRead hlen (by omega)).symm.trans hb)).symm.trans hfk)

end Block

/-- The WALK2 key of a pair that is no candidate is WSKIP's, whatever its second bit (R85). -/
theorem decode_skipKey (prem : Bool) :
    decode (.walk2 (BitVec.ofBool false ++ BitVec.ofBool prem)) = .ok .wskip := by
  cases prem <;> rfl

/-- Settles O33: a pair that is no candidate, a candidate with a premature header, a candidate without one. -/
theorem walkSelectsByItsKey : Obligations.WalkSelectsByItsKey := by
  intro s f hv hc hf
  have hlen : 1980 ≤ s.rawLen := by rw [State.rawLen, hv]; rfl
  have hr : s.readsBelow 1980 := fun j hj => ⟨f j, hf.rawRead hlen hj⟩
  have h1 : s.rawRead s.locals.cursor = .ok (f s.locals.cursor) := hf.rawRead hlen (by omega)
  have h2 : s.rawRead (s.locals.cursor + 1) = .ok (f (s.locals.cursor + 1)) := hf.rawRead hlen (by omega)
  cases hi : Operands.idxdec (f s.locals.cursor) (f (s.locals.cursor + 1)) with
  | none =>
    have hno := idxdec_eq_none_iff.1 hi
    exact ⟨.wskip, false, s.locals.idx, s.locals.premature, s.locals.kMin, decode_skipKey _,
      congrArg answer (State.walkIter_of_skip h1 h2 hi), by simpa using hno, by simp, by simp, by simp⟩
  | some idx =>
    obtain ⟨hpair, hidx⟩ := idxdec_eq_some_iff.1 hi
    have hscan : ∀ k ∈ scanOffsets, s.locals.cursor + k < 1980 := fun k hk => by
      have := mem_scanOffsets.1 hk
      omega
    obtain ⟨r, hk⟩ := State.firstHeader_completes hr hscan
    cases r with
    | some k =>
      obtain ⟨hk2, hk21, hfk, hbelow⟩ := hf.premature hlen hc hk
      exact ⟨.wcorrupt, true, idx, true, k, rfl, congrArg answer (State.walkIter_of_premature h1 h2 hi hk),
        by simpa using hpair, fun _ => hidx, fun _ => by simpa using ⟨k, hk2, hk21, hfk⟩,
        fun _ _ => ⟨hk2, hk21, hfk, hbelow⟩⟩
    | none =>
      have hclean := hf.notPremature hlen hc hk
      exact ⟨.waccept, true, idx, false, s.locals.kMin, rfl,
        congrArg answer (State.walkIter_of_packet h1 h2 hi hk),
        by simpa using hpair, fun _ => hidx, fun _ => by simpa using hclean, by simp⟩

end Sys2Proof.Machine

/-! SUPPORT and proofs for `spec/40_sample_decode.md`: the candidate test, the field decoders, and WACCEPT, which writes
the slots of a packet's four samples. -/

namespace Sys2Proof.Machine

/-! ### The candidate test on a pair of bytes (R85, R108) -/

/-- The candidate pairs as words: `FA A0` and up, by the index. -/
theorem idxdec_of_word {h x : Byte} {idx : BitVec 7} (hi : idx.toNat ≤ 89)
    (hw : (h ++ x).toNat = 0xFAA0 + idx.toNat) : Operands.idxdec h x = some idx := by
  rw [toNat_append_eq_add] at hw
  exact idxdec_eq_some_iff.2 ⟨⟨BitVec.eq_of_toNat_eq (show h.toNat = 250 by omega), by omega⟩, by omega⟩

/-- A row that answers the candidate with the index of the pair's word answers the candidate test of the pair. -/
theorem exec_candidateRow {h x : Byte} {i : Instr} {idx : BitVec 7} {s : State}
    (hrow : exec i s = .next (s.setCandidate (some idx))) (hi : idx.toNat ≤ 89)
    (hw : (h ++ x).toNat = 0xFAA0 + idx.toNat) : exec i s = .next (s.setCandidate (Operands.idxdec h x)) := by
  rw [idxdec_of_word hi hw, hrow]

/-- The row that the decoder selects for a pair answers the candidate test of that pair. -/
theorem exec_decodeWalk1 (h x : Byte) (s : State) :
    exec (decodeWalk1 (h ++ x)) s = .next (s.setCandidate (Operands.idxdec h x)) := by
  have hword := toNat_append_eq_add h x
  have hp5 := toNat_extractLsb'_eq_div 0 5 x
  have hp4 := toNat_extractLsb'_eq_div 0 4 x
  have hp3 := toNat_extractLsb'_eq_div 0 3 x
  have hp1 := toNat_extractLsb'_eq_div 0 1 x
  rw [decodeWalk1_eq, BitVec.extractLsb'_append_eq_right]
  split_ifs with hA0 hC0 hE0 hF0 hF8
  · exact exec_candidateRow rfl (by bv_omega) (by bv_omega)
  · exact exec_candidateRow rfl (by bv_omega) (by bv_omega)
  · exact exec_candidateRow rfl (by bv_omega) (by bv_omega)
  · exact exec_candidateRow rfl (by bv_omega) (by bv_omega)
  · exact exec_candidateRow rfl (by bv_omega) (by bv_omega)
  · rw [idxdec_eq_none_iff.2 (by bv_omega)]
    rfl

/-- Settles O7: the decoder's row by `exec_decodeWalk1`, its answer by the definition of the test. -/
theorem candidateTestOnEveryPair : Obligations.CandidateTestOnEveryPair := by
  intro h x s
  refine ⟨decodeWalk1 (h ++ x), rfl, ?_⟩
  rw [exec_decodeWalk1]
  split_ifs with hc
  · obtain ⟨hh, h160, h89⟩ := hc
    rw [Operands.idxdec, if_neg (not_not.2 hh), if_pos ⟨h160, h89⟩]
    rfl
  · have hnone : ¬(h = 0xFA ∧ 160 ≤ x.toNat ∧ x.toNat ≤ 249) :=
      fun ⟨hh, h160, h249⟩ => hc ⟨hh, h160, by omega⟩
    rw [idxdec_eq_none_iff.2 hnone]
    rfl

/-! ### SAMPLE is a bijection (R106) -/

/-- R79's arithmetic fixes the slot: it is the one that SAMPLE answers. -/
theorem decodesFrom_iff {x : Slot} {b0 b1 b2 b3 : Byte} :
    x.decodesFrom b0 b1 b2 b3 ↔ Operands.sample b0 b1 b2 b3 = x := by
  constructor
  · rintro ⟨hr, ht, hn, hi⟩
    obtain ⟨hr', ht', hn', hi'⟩ := sample_decodesFrom b0 b1 b2 b3
    cases x
    rw [Operands.sample, Slot.mk.injEq]
    exact ⟨BitVec.eq_of_toNat_eq (hr'.trans hr.symm), Bool.eq_iff_iff.2 (ht'.trans ht.symm),
      Bool.eq_iff_iff.2 (hn'.trans hn.symm), BitVec.eq_of_toNat_eq (hi'.trans hi.symm)⟩
  · rintro rfl
    exact sample_decodesFrom b0 b1 b2 b3

/-- R79's arithmetic fixes the bytes: no bit of them is lost. -/
theorem decodesFrom_inj {x : Slot} {b0 b1 b2 b3 c0 c1 c2 c3 : Byte} (hb : x.decodesFrom b0 b1 b2 b3)
    (hc : x.decodesFrom c0 c1 c2 c3) : b0 = c0 ∧ b1 = c1 ∧ b2 = c2 ∧ b3 = c3 := by
  obtain ⟨hr, ht, hn, hi⟩ := hb
  obtain ⟨hr', ht', hn', hi'⟩ := hc
  have h6 := ht.symm.trans ht'
  have h7 := hn.symm.trans hn'
  bv_omega

/-- Four bytes that hold the bits of a slot: the range below its two flags, then the intensity (R77, R79). -/
theorem exists_decodesFrom (x : Slot) : ∃ b0 b1 b2 b3 : Byte, x.decodesFrom b0 b1 b2 b3 := by
  obtain ⟨r, t, n, i⟩ := x
  refine ⟨BitVec.ofNat 8 r.toNat, BitVec.ofNat 8 (r.toNat / 256 + 64 * t.toNat + 128 * n.toNat),
    BitVec.ofNat 8 i.toNat, BitVec.ofNat 8 (i.toNat / 256), ?_⟩
  have ht := t.toNat_lt
  have hn := n.toNat_lt
  simp only [Slot.decodesFrom, BitVec.toNat_ofNat, ← Bool.toNat_eq_one]
  omega

/-- Settles O42: `decodesFrom_inj` and `exists_decodesFrom`. -/
theorem sampleIsABijection : Obligations.SampleIsABijection := by
  refine ⟨fun b0 b1 b2 b3 c0 c1 c2 c3 h => ?_, fun x => ?_⟩
  · exact decodesFrom_inj (decodesFrom_iff.2 h) (sample_decodesFrom c0 c1 c2 c3)
  · obtain ⟨b0, b1, b2, b3, hx⟩ := exists_decodesFrom x
    exact ⟨b0, b1, b2, b3, decodesFrom_iff.1 hx⟩

/-! ### The decoders of one field (R100 to R105, R107, R109) -/

/-- Settles O43: `0x3F` masks a residue modulo 64. -/
theorem rangeKeepsFourteenBits : Obligations.RangeKeepsFourteenBits := by
  intro b0 b1 s
  have hmask : (b1 &&& 0x3F).toNat = b1.toNat % 64 := Nat.and_two_pow_sub_one_eq_mod b1.toNat 6
  exact ⟨Operands.range b0 b1, rfl, hmask ▸ range_toNat b0 b1⟩

/-- Settles O44 (`getLsbD_eq_true_iff`). -/
theorem flagSlicersAnswerTheTopBits : Obligations.FlagSlicersAnswerTheTopBits := by
  intro b1 s
  exact ⟨⟨Flags.tooClose b1, rfl, getLsbD_eq_true_iff b1 6⟩, ⟨Flags.noReturn b1, rfl, getLsbD_eq_true_iff b1 7⟩⟩

/-- Settles O45: all three are LE16 (`le16_toNat`). -/
theorem pairLoadsAreLittleEndian : Obligations.PairLoadsAreLittleEndian := by
  intro lo hi s
  have hv : (Operands.le16 lo hi).toNat = 256 * hi.toNat + lo.toNat := (le16_toNat lo hi).trans (Nat.add_comm ..)
  exact ⟨⟨Operands.le16 lo hi, rfl, hv⟩, ⟨Operands.intens lo hi, rfl, hv⟩, ⟨Operands.speed16 lo hi, rfl, hv⟩⟩

/-- Nine bits hold the angle of every index and sample number. -/
theorem angle_toNat (idx : BitVec 7) (o : BitVec 2) : (Operands.angle idx o).toNat = 4 * idx.toNat + o.toNat := by
  rw [Operands.angle, BitVec.toNat_ofNat]
  omega

/-- Settles O46: the pair of an angle is its quotient and its remainder by 4. -/
theorem angleIsABijectionOntoTheSlots : Obligations.AngleIsABijectionOntoTheSlots := by
  refine ⟨fun idx o s hi => ⟨Operands.angle idx o, rfl, angle_toNat idx o, Nat.le_of_lt_succ (angle_lt hi o)⟩,
    fun a ha => ⟨(BitVec.ofNat 7 (a / 4), BitVec.ofNat 2 (a % 4)), ?_, ?_⟩⟩
  · simp only [angle_toNat, BitVec.toNat_ofNat]
    omega
  · rintro ⟨idx, o⟩ ⟨-, hp⟩
    rw [angle_toNat] at hp
    rw [Prod.mk.injEq]
    bv_omega

/-! ### Slot writes one after the other (R133, R156) -/

/-- Writing, one after the other, the slots of a list's angles: a slot that is named holds the record of its angle, any
other is as before, and the event log notes the writes in the list's order. -/
theorem foldlM_slotWrites {α : Type} {f : State → α → Except Fault State} {angle : α → Nat} {rec : Nat → Slot}
    {l : List α} {s : State} (hlt : ∀ x ∈ l, angle x < 360)
    (hf : ∀ t, s.slotsOnly t → ∀ x ∈ l, f t x = t.slotWrite (angle x) (rec (angle x))) :
    ∃ acc, l.foldlM f s = .ok { s with
        acc := acc, log := (l.map fun x => LogEntry.slot (angle x) (rec (angle x))).reverse ++ s.log } ∧
      ∀ a : Fin 360, acc[a] = if a.val ∈ l.map angle then rec a else s.acc[a] := by
  induction l generalizing s with
  | nil => exact ⟨s.acc, rfl, fun a => rfl⟩
  | cons x l ih =>
    have hx : angle x < 360 := hlt x (List.mem_cons_self ..)
    have hw : f s x = .ok _ :=
      (hf s s.slotsOnly_refl x (List.mem_cons_self ..)).trans (State.slotWrite_ok.2 ⟨hx, rfl⟩)
    obtain ⟨acc, hl, hacc⟩ := ih (fun y hy => hlt y (List.mem_cons_of_mem _ hy))
      (fun t ht y hy => hf t (State.slotsOnly.trans ⟨_, _, rfl⟩ ht) y (List.mem_cons_of_mem _ hy))
    refine ⟨acc, ?_, fun a => ?_⟩
    · rw [List.foldlM_cons]
      exact (except_bind_ok.2 ⟨_, hw, hl⟩).trans (by simp)
    · rw [hacc a]
      by_cases ha : angle x = a.val
      · simp [ha]
      · simp [ha, Ne.symm ha]

/-! ### WACCEPT (R156) -/

/-- The angles that a packet's samples have are those whose quotient by 4 is its index (R109). -/
theorem mem_packetAngles {idx : BitVec 7} {a : Nat} :
    a ∈ sampleNumbers.map (fun o => (Operands.angle idx o).toNat) ↔ a / 4 = idx.toNat := by
  simp only [sampleNumbers, List.map_cons, List.map_nil, List.mem_cons, List.not_mem_nil, or_false, angle_toNat]
  bv_omega

/-- The slot of angle `a` in the packet at `i` whose bytes `f` gives (R77, R109). -/
def packetSlot (f : Nat → Byte) (i a : Nat) : Slot :=
  Operands.sample (f (i + 4 + 4 * (a % 4))) (f (i + 5 + 4 * (a % 4))) (f (i + 6 + 4 * (a % 4))) (f (i + 7 + 4 * (a % 4)))

/-- One sample of a readable packet is a write of the slot of its angle. -/
theorem State.acceptSample_eq {s : State} {f : Nat → Byte} {i : Nat}
    (hf : ∀ j, i + 2 ≤ j → j < i + 20 → s.rawRead j = .ok (f j)) (idx : BitVec 7) (o : BitVec 2) :
    s.acceptSample i idx o =
      s.slotWrite (Operands.angle idx o).toNat (packetSlot f i (Operands.angle idx o).toNat) := by
  have hread (k : Nat) (hk : k < 4) : s.rawRead (i + 4 + 4 * o.toNat + k) = .ok (f (i + 4 + k + 4 * o.toNat)) := by
    rw [Nat.add_right_comm]
    exact hf _ (by omega) (by omega)
  have ho : (Operands.angle idx o).toNat % 4 = o.toNat := by
    rw [angle_toNat]
    omega
  have hsample : s.sampleAt (i + 4 + 4 * o.toNat) = .ok (packetSlot f i (Operands.angle idx o).toNat) := by
    rw [packetSlot, ho]
    exact State.sampleAt_ok.2 ⟨_, _, _, _, hread 0 (by omega), hread 1 (by omega), hread 2 (by omega),
      hread 3 (by omega), rfl⟩
  rw [State.acceptSample, hsample]
  rfl

/-- All that accepting a readable packet does: the bytes `f` of the packet at `i` give its speed and its four slots, and
the event log notes the slots in the order of the samples. -/
theorem State.acceptPacket_eq {s : State} {f : Nat → Byte} {i : Nat} {idx : BitVec 7} (hc : s.locals.cursor = i)
    (hi : idx.toNat ≤ 89) (hf : ∀ j, i + 2 ≤ j → j < i + 20 → s.rawRead j = .ok (f j)) :
    ∃ acc, s.acceptPacket idx = .ok { s with
        speedSum := s.speedSum + (f (i + 3) ++ f (i + 2)).zeroExtend 23
        goodPackets := s.goodPackets + 1
        acc := acc
        locals := { s.locals with cursor := i + 22, stop := s.locals.stop || decide (idx.toNat = 89) }
        log := (sampleNumbers.map fun o =>
          LogEntry.slot (Operands.angle idx o).toNat (packetSlot f i (Operands.angle idx o).toNat)).reverse ++ s.log } ∧
      ∀ a : Fin 360, acc[a] = if a.val / 4 = idx.toNat then packetSlot f i a else s.acc[a] := by
  have hspeed : s.rawRead2 (i + 2) = .ok (f (i + 3) ++ f (i + 2)) :=
    State.rawRead2_ok.2 ⟨_, _, hf _ (by omega) (by omega), hf _ (by omega) (by omega), rfl⟩
  obtain ⟨acc, hslots, hacc⟩ := foldlM_slotWrites (l := sampleNumbers) (rec := packetSlot f i)
    (f := fun t o => t.acceptSample i idx o) (s := s.countPacket (f (i + 3) ++ f (i + 2)))
    (fun o _ => angle_lt hi o)
    fun t ht o _ => State.acceptSample_eq
      (fun j h2 h20 => (State.rawRead_congr ht.variant ht.walkOnly.raw j).trans (hf j h2 h20)) idx o
  subst hc
  refine ⟨acc, except_bind_ok.2 ⟨_, hspeed, except_bind_ok.2 ⟨_, hslots, ?_⟩⟩, fun a => ?_⟩
  · by_cases h89 : idx.toNat = 89
    · simp [h89, State.setStop, State.advance, State.countPacket, pure, Except.pure]
    · simp [h89, State.advance, State.countPacket, pure, Except.pure]
  · simp only [hacc a, mem_packetAngles]
    rfl

/-- Settles O32 (`State.acceptPacket_eq`). -/
theorem acceptUsesThePacket : Obligations.AcceptUsesThePacket := by
  rintro s f i idx hc rfl hi hlen hf
  obtain ⟨acc, hnext, hacc⟩ := State.acceptPacket_eq hc hi fun j h2 h20 =>
    State.rawRead_ok.2 ⟨show j < Config.rawLen s.variant by omega, hf j h2 h20⟩
  refine ⟨_, _, acc, _, answer_next.2 hnext, ?_, ?_, fun a => ?_⟩
  · have hv := le16_toNat (f (i + 2)) (f (i + 3))
    rw [Operands.le16] at hv
    rw [BitVec.toNat_add, BitVec.toNat_setWidth, hv]
    omega
  · rw [BitVec.toNat_add]
    rfl
  · rw [hacc a]
    split_ifs
    · exact sample_decodesFrom ..
    · rfl

end Sys2Proof.Machine

/-! SUPPORT and proofs for `spec/41_legacy_sync.md`: the matcher's transition, runs over a list of bytes, and a whole
legacy frame, byte by byte from the first sync byte to the scan (R134). -/

namespace Sys2Proof.Machine

/-! ### The matcher (R120 to R125) -/

/-- R120's comparison with the start sequence's byte at the count is the well-formedness check's (R81). -/
theorem lsync_getElem?_eq_some_iff {c : BitVec 2} {b : Byte} :
    ([0x5A, 0xA5, 0x00, 0xC0] : List Byte)[c.toNat]? = some b ↔ Instr.isLegacyMatch c b = true := by
  obtain rfl | rfl | rfl | rfl := (by decide : ∀ c : BitVec 2, c = 0 ∨ c = 1 ∨ c = 2 ∨ c = 3) c <;>
    simp [Instr.isLegacyMatch, Config.lsync, eq_comm (a := b)]

/-- While busy with nothing held, an offered byte runs the operation that its key selects. -/
theorem step_of_byte {s : State} {b : Byte} {i : Instr} {rest : List Offer}
    (ho : s.offers = .source (.byte b) :: rest) (hb : s.busy = true) (hh : s.held = [])
    (hd : decode (s.sourceKey (.byte b)) = .ok i) : step s = exec i { s with offers := rest } :=
  (step_of_source_busy ho hb hh).trans (State.runKey_ok hd)

/-- Settles O20: each operation is one update of the state. -/
theorem legacyMatcherOperationsComplete : Obligations.LegacyMatcherOperationsComplete := by
  intro s
  exact ⟨rfl, rfl, rfl, rfl, fun _ _ => rfl⟩

/-- Settles O19: a mismatch selects LMISS (`decodeLegacySearch_miss`), a match the operation of its count. -/
theorem legacyMatcherTransition : Obligations.LegacyMatcherTransition := by
  intro s b rest hv hp hh ho
  rw [step_of_byte ho (State.busy_of_phase hp (by decide)) hh (State.decode_byteKey_legacySearch b hv hp)]
  cases hm : Instr.isLegacyMatch s.startCount b with
  | false =>
    rw [if_neg (mt lsync_getElem?_eq_some_iff.1 (by simp [hm])), decodeLegacySearch_miss hm]
    rfl
  | true =>
    rw [if_pos (lsync_getElem?_eq_some_iff.2 hm)]
    obtain ⟨hc, rfl⟩ | ⟨hc, rfl⟩ | ⟨hc, rfl⟩ | ⟨hc, rfl⟩ := isLegacyMatch_iff.1 hm <;>
    · rw [hc]
      rfl

/-! ### Runs over the bytes that the byte source delivers -/

/-- The machine comes from `s` to `t` in `n` steps. -/
def State.runsTo (s : State) (n : Nat) (t : State) : Prop := Sys2Proof.core.run n s = .next t

theorem run_succ_eq_next {M : Host.Core} {s t : M.State} {n : Nat} :
    M.run (n + 1) s = .next t ↔ ∃ u, M.step s = .next u ∧ M.run n u = .next t := by
  rw [Host.Core.run]
  cases M.step s <;> simp

theorem State.runsTo_succ {s t : State} {n : Nat} : s.runsTo (n + 1) t ↔ ∃ u, step s = .next u ∧ u.runsTo n t :=
  run_succ_eq_next

theorem State.runsTo_of_step {s t : State} (h : step s = .next t) : s.runsTo 1 t :=
  State.runsTo_succ.2 ⟨t, h, rfl⟩

theorem State.runsTo.trans {s t u : State} {m n : Nat} (h : s.runsTo m u) (h' : u.runsTo n t) :
    s.runsTo (m + n) t := by
  induction m generalizing s with
  | zero =>
    cases h
    rwa [Nat.zero_add]
  | succ m ih =>
    obtain ⟨w, hs, hw⟩ := State.runsTo_succ.1 h
    rw [Nat.add_right_comm]
    exact State.runsTo_succ.2 ⟨w, hs, ih hw⟩

/-- While busy, the first of the delivered bytes runs the operation that its key selects. -/
theorem step_feedBytes {s : State} {b : Byte} {i : Instr} (hb : s.busy = true)
    (hd : decode (s.sourceKey (.byte b)) = .ok i) (bs : List Byte) :
    step (s.feedBytes (b :: bs)) = exec i (s.feedBytes bs) :=
  step_of_byte (s := s.feedBytes (b :: bs)) rfl hb rfl hd

/-- The count after the bytes, by R120's transition; none once they have completed the start sequence. -/
def legacyCount : BitVec 2 → List Byte → Option (BitVec 2)
  | c, [] => some c
  | c, b :: bs =>
    if Instr.isLegacyMatch c b then (if c = 3 then none else legacyCount (c + 1) bs) else legacyCount 0 bs

/-- Over bytes that do not complete the start sequence the unit goes on searching, and only the count changes. -/
theorem runsTo_legacySearch {s : State} {bs : List Byte} {c : BitVec 2} (hv : s.variant = .legacy)
    (hp : s.phase = .search) (hc : legacyCount s.startCount bs = some c) (rest : List Byte) :
    (s.feedBytes (bs ++ rest)).runsTo bs.length (State.feedBytes { s with startCount := c } rest) := by
  induction bs generalizing s with
  | nil =>
    cases hc
    rfl
  | cons b bs ih =>
    have hstep := legacyMatcherTransition (s.feedBytes (b :: (bs ++ rest))) b _ hv hp rfl rfl
    rw [legacyCount] at hc
    split_ifs at hc with hm h3
    · have hnext := hstep.trans (congrArg _ ((if_pos (lsync_getElem?_eq_some_iff.2 hm)).trans (if_neg h3)))
      exact State.runsTo_succ.2 ⟨_, hnext, ih (s := { s with startCount := s.startCount + 1 }) hv hp hc⟩
    · have hnext := hstep.trans (congrArg _ (if_neg (mt lsync_getElem?_eq_some_iff.1 hm)))
      exact State.runsTo_succ.2 ⟨_, hnext, ih (s := { s with startCount := 0 }) hv hp hc⟩

/-- Settles O21: the two streams lead from count 0 to count 0 (`runsTo_legacySearch`). -/
theorem legacyMatcherReusesNoPrefix : Obligations.LegacyMatcherReusesNoPrefix := by
  intro s hv hp hc
  have hrun (bs : List Byte) (h0 : legacyCount 0 bs = some 0) :
      (s.feedBytes (bs ++ [])).runsTo bs.length (s.feedBytes []) :=
    runsTo_legacySearch (c := s.startCount) hv hp (by rw [hc, h0]) []
  exact ⟨hrun [0x5A, 0x5A, 0xA5, 0x00, 0xC0] (by decide), hrun [0x5A, 0xA5, 0x5A, 0xA5, 0x00, 0xC0] (by decide)⟩

/-- The whole start sequence, from count 0 (R121 to R124). -/
theorem runsTo_legacySync {s : State} (hv : s.variant = .legacy) (hp : s.phase = .search) (hc : s.startCount = 0)
    (rest : List Byte) :
    (s.feedBytes (0x5A :: 0xA5 :: 0x00 :: 0xC0 :: rest)).runsTo 4
      (State.feedBytes { s with startCount := 0, fillCount := 0, phase := .speed } rest) := by
  have hthree : legacyCount s.startCount [0x5A, 0xA5, 0x00] = some 3 := by
    rw [hc]
    decide
  have hfull := legacyMatcherTransition (State.feedBytes { s with startCount := 3 } (0xC0 :: rest)) 0xC0 _ hv hp rfl rfl
  exact (runsTo_legacySearch hv hp hthree (0xC0 :: rest)).trans (State.runsTo_of_step hfull)

/-! ### The speed bytes (R130, R131) -/

theorem step_feedBytes_lspd0 {s : State} (hv : s.variant = .legacy) (hp : s.phase = .speed) (hf : s.fillCount = 0)
    (b : Byte) (bs : List Byte) : step (s.feedBytes (b :: bs)) =
      .next (State.feedBytes { s with speedRaw := s.speedRaw.extractLsb' 8 8 ++ b, fillCount := 1 } bs) := by
  have hd : decode (s.sourceKey (.byte b)) = .ok (.lspd0 b) := by
    rw [State.decode_byteKey_legacySpeed b hv hp, hf]
    rfl
  exact step_feedBytes (State.busy_of_phase hp (by decide)) hd bs

theorem step_feedBytes_lspd1 {s : State} (hv : s.variant = .legacy) (hp : s.phase = .speed) (hf : s.fillCount = 1)
    (b : Byte) (bs : List Byte) : step (s.feedBytes (b :: bs)) =
      .next (State.feedBytes
        { s with speedRaw := b ++ s.speedRaw.extractLsb' 0 8, fillCount := 0, phase := .fill } bs) := by
  have hd : decode (s.sourceKey (.byte b)) = .ok (.lspd1 b) := by
    rw [State.decode_byteKey_legacySpeed b hv hp, hf]
    rfl
  exact step_feedBytes (State.busy_of_phase hp (by decide)) hd bs

/-- The two speed bytes leave their little-endian value, whatever the register held (R107). -/
theorem runsTo_legacySpeed {s : State} (hv : s.variant = .legacy) (hp : s.phase = .speed) (hf : s.fillCount = 0)
    (s0 s1 : Byte) (rest : List Byte) :
    (s.feedBytes (s0 :: s1 :: rest)).runsTo 2
      (State.feedBytes { s with speedRaw := Operands.le16 s0 s1, fillCount := 0, phase := .fill } rest) := by
  have hlow : (s.speedRaw.extractLsb' 8 8 ++ s0).extractLsb' 0 8 = s0 := BitVec.extractLsb'_append_eq_right
  have hlspd1 := step_feedBytes_lspd1
    (s := { s with speedRaw := s.speedRaw.extractLsb' 8 8 ++ s0, fillCount := 1 }) hv hp rfl s1 rest
  rw [hlow] at hlspd1
  exact State.runsTo_succ.2 ⟨_, step_feedBytes_lspd0 hv hp hf s0 _, State.runsTo_of_step hlspd1⟩

/-- The six bytes before the body, from count 0 (R120 to R124, R130, R131). -/
theorem runsTo_legacyHeader {s : State} (hv : s.variant = .legacy) (hp : s.phase = .search) (hc : s.startCount = 0)
    (s0 s1 : Byte) (rest : List Byte) :
    (s.feedBytes ([0x5A, 0xA5, 0x00, 0xC0, s0, s1] ++ rest)).runsTo 6
      (State.feedBytes
        { s with startCount := 0, speedRaw := Operands.le16 s0 s1, fillCount := 0, phase := .fill } rest) :=
  have hspeed := runsTo_legacySpeed (s := { s with startCount := 0, fillCount := 0, phase := .speed }) hv rfl rfl s0 s1
  (runsTo_legacySync hv hp hc _).trans (hspeed rest)

/-! ### The body decode (R133) -/

/-- The slot of angle `a` in a body whose bytes `f` gives (R59, R133). -/
def bodySlot (f : Nat → Byte) (a : Nat) : Slot :=
  Operands.sample (f (4 * a)) (f (4 * a + 1)) (f (4 * a + 2)) (f (4 * a + 3))

theorem State.decodeSlot_eq {s : State} {f : Nat → Byte} (hf : ∀ j < 1440, s.rawRead j = .ok (f j)) {a : Nat}
    (ha : a < 360) : s.decodeSlot a = s.slotWrite a (bodySlot f a) := by
  have hsample : s.sampleAt (4 * a) = .ok (bodySlot f a) :=
    State.sampleAt_ok.2 ⟨_, _, _, _, hf _ (by omega), hf _ (by omega), hf _ (by omega), hf _ (by omega), rfl⟩
  rw [State.decodeSlot, hsample]
  rfl

/-- All that decoding a readable body does: the slots by position, noted in the event log in ascending order. -/
theorem State.decodeBody_eq {s : State} {f : Nat → Byte} (hf : ∀ j < 1440, s.rawRead j = .ok (f j)) :
    ∃ acc, s.decodeBody = .ok { s with
        acc := acc, log := ((List.range 360).map fun a => LogEntry.slot a (bodySlot f a)).reverse ++ s.log } ∧
      ∀ a : Fin 360, acc[a] = bodySlot f a := by
  obtain ⟨acc, hacc, hslot⟩ := foldlM_slotWrites (f := State.decodeSlot) (angle := id) (rec := bodySlot f) (s := s)
    (fun _ ha => List.mem_range.1 ha)
    fun t ht a ha => State.decodeSlot_eq
      (fun j hj => (State.rawRead_congr ht.variant ht.walkOnly.raw j).trans (hf j hj)) (List.mem_range.1 ha)
  exact ⟨acc, hacc, fun a => (hslot a).trans (if_pos (by simp))⟩

/-! ### The body bytes (R132) -/

theorem State.rawLen_of_legacy {s : State} (hv : s.variant = .legacy) : s.rawLen = 1440 := by
  rw [State.rawLen, hv]
  rfl

/-- A store at the first offset beyond the bytes that are there (R65). -/
theorem State.holdsBytes.stored {s : State} {n : Nat} {f : Nat → Byte} (h : s.holdsBytes n f) :
    (s.stored n (f n)).holdsBytes (n + 1) f := by
  intro j hj
  by_cases hjn : j = n
  · exact hjn ▸ Memory.read_write_same ..
  · exact (Memory.read_write_other _ _ hjn).trans (h j (by omega))

/-- LBODY before the last body byte. -/
theorem execLbody_of_lt {s : State} (hv : s.variant = .legacy) (hlt : s.fillCount.toNat < 1439) (b : Byte) :
    execLbody b s = .next { s.stored s.fillCount.toNat b with fillCount := s.fillCount + 1 } := by
  have hlen := State.rawLen_of_legacy hv
  have hnot : s.fillCount ≠ 1439 := fun h => absurd (h ▸ hlt) (by decide)
  exact execLbody_next.2 ⟨_, State.rawWrite_eq_stored (by omega) b, .inr ⟨hnot, rfl⟩⟩

/-- LBODY at the last body byte: the store, the decode of the whole body, and the completion (R132, R133, R181). -/
theorem execLbody_of_last {s : State} {f : Nat → Byte} (hv : s.variant = .legacy) (hc : s.fillCount = 1439)
    (hf : s.holdsBytes 1439 f) :
    ∃ acc log, execLbody (f 1439) s =
        .next (State.finish { s.stored 1439 (f 1439) with acc := acc, log := log }) ∧
      ∀ a : Fin 360, acc[a] = bodySlot f a := by
  have hlen := State.rawLen_of_legacy hv
  have hwrite : s.rawWrite s.fillCount.toNat (f 1439) = .ok (s.stored 1439 (f 1439)) := by
    rw [hc]
    exact State.rawWrite_eq_stored (by rw [hlen]; decide) _
  obtain ⟨acc, hbody, hacc⟩ := State.decodeBody_eq fun j hj => hf.stored.rawRead hlen.ge hj
  exact ⟨acc, _, execLbody_next.2 ⟨_, hwrite, .inl ⟨hc, _, hbody, rfl⟩⟩, hacc⟩

/-- A legacy unit has read its speed `v` and the first `n` bytes of the body `d`. -/
structure BodyRead (v : BitVec 16) (d : Nat → Byte) (n : Nat) (s : State) : Prop where
  variant : s.variant = .legacy
  phase : s.phase = .fill
  fillCount : s.fillCount.toNat = n
  speedRaw : s.speedRaw = v
  bytes : s.holdsBytes n d

section Body
variable {v : BitVec 16} {d : Nat → Byte} {n : Nat} {s : State}

theorem BodyRead.step_eq_execLbody (h : BodyRead v d n s) (b : Byte) (bs : List Byte) :
    step (s.feedBytes (b :: bs)) = execLbody b (s.feedBytes bs) :=
  step_feedBytes (State.busy_of_phase h.phase (by decide)) (State.decode_byteKey_legacyFill b h.variant h.phase) bs

theorem BodyRead.stored (h : BodyRead v d n s) (hn : n < 1439) :
    BodyRead v d (n + 1) { s.stored n (d n) with fillCount := s.fillCount + 1 } where
  variant := h.variant
  phase := h.phase
  fillCount := (fillCount_succ (h.fillCount ▸ hn.trans (by decide))).trans (congrArg (· + 1) h.fillCount)
  speedRaw := h.speedRaw
  bytes := h.bytes.stored

/-- Body bytes before the last one, one after the other. -/
theorem BodyRead.runsTo (h : BodyRead v d 0 s) (hn : n ≤ 1439) (rest : List Byte) :
    ∃ t, (s.feedBytes ((List.range n).map d ++ rest)).runsTo n (t.feedBytes rest) ∧ BodyRead v d n t := by
  induction n generalizing rest with
  | zero => exact ⟨s, rfl, h⟩
  | succ n ih =>
    obtain ⟨t, hrun, ht⟩ := ih (by omega) (d n :: rest)
    refine ⟨_, ?_, ht.stored hn⟩
    have hlbody := (ht.step_eq_execLbody (d n) rest).trans
      (execLbody_of_lt (s := t.feedBytes rest) ht.variant (ht.fillCount.trans_lt hn) (d n))
    have hoffset : (t.feedBytes rest).fillCount.toNat = n := ht.fillCount
    rw [hoffset] at hlbody
    rw [List.range_succ, List.map_append, List.append_assoc]
    exact hrun.trans (State.runsTo_of_step hlbody)

/-- The last body byte completes the `poll()` with the scan of the body (R133, R180, R181). -/
theorem BodyRead.step_last (h : BodyRead v d 1439 s) (rest : List Byte) :
    ∃ t : State, step (s.feedBytes (d 1439 :: rest)) = .next (t.feedBytes rest) ∧ t.phase = .idle ∧
      ∃ c, t.result = .scan c ∧ c.telemetry = .legacy v ∧ ∀ a : Fin 360, c.samples[a] = bodySlot d a := by
  obtain ⟨acc, log, hlbody, hacc⟩ :=
    execLbody_of_last (s := s.feedBytes rest) h.variant (BitVec.eq_of_toNat_eq h.fillCount) h.bytes
  refine ⟨State.finish { s.stored 1439 (d 1439) with acc := acc, log := log },
    (h.step_eq_execLbody (d 1439) rest).trans hlbody, rfl, _, rfl, ?_, hacc⟩
  obtain ⟨hv, -, -, rfl, -⟩ := h
  simp only [State.scanRecord, State.telemetry, State.stored, hv]

end Body

/-- Settles O26: the start sequence and the speed bytes, the body bytes before the last one, the last one. -/
theorem legacyFrameYieldsItsScan : Obligations.LegacyFrameYieldsItsScan := by
  intro s s0 s1 d hv hp hc
  have hrange : List.range 1440 = List.range 1439 ++ [1439] := List.range_succ
  have hbody : (List.range 1440).map d = (List.range 1439).map d ++ [d 1439] := by
    rw [hrange, List.map_append]
    rfl
  have hheader := runsTo_legacyHeader hv hp hc s0 s1 ((List.range 1439).map d ++ [d 1439])
  have hnone : BodyRead (Operands.le16 s0 s1) d 0
      { s with startCount := 0, speedRaw := Operands.le16 s0 s1, fillCount := 0, phase := .fill } :=
    ⟨hv, rfl, rfl, rfl, fun j hj => absurd hj (Nat.not_lt_zero j)⟩
  obtain ⟨u, hrun, hu⟩ := hnone.runsTo le_rfl [d 1439]
  obtain ⟨t, hlast, hidle, c, hscan, htelemetry, hslots⟩ := hu.step_last []
  rw [hbody]
  refine ⟨t.feedBytes [], c, _, (hheader.trans hrun).trans (State.runsTo_of_step hlast), hidle, rfl, hscan,
    htelemetry, le16_toNat s0 s1, fun a => ?_⟩
  rw [hslots a]
  exact sample_decodesFrom ..

end Sys2Proof.Machine

/-! Proofs for `spec/42_legacy_frame.md`: the speed bytes (R130, R131), the body bytes (R132), and the decode of the
body by position (R133) with the scan it completes (R180, R181). -/

namespace Sys2Proof.Machine

/-! ### The speed bytes (R130, R131) -/

/-- Settles O22: each half of `speed_raw` is one side of a concatenation; LSPD1 keeps the low half that LSPD0 wrote. -/
theorem speedBytesLoadLittleEndian : Obligations.SpeedBytesLoadLittleEndian := by
  intro s b c
  have hlow (hi lo : Byte) : (hi ++ lo).extractLsb' 0 8 = lo := BitVec.extractLsb'_append_eq_right
  have hhigh (hi lo : Byte) : (hi ++ lo).extractLsb' 8 8 = hi := BitVec.extractLsb'_append_eq_left
  refine ⟨⟨_, rfl, hlow .., hhigh ..⟩, ⟨_, rfl, hlow .., hhigh ..⟩, ?_⟩
  rintro _ _ ⟨⟩ ⟨⟩
  calc (c ++ (s.speedRaw.extractLsb' 8 8 ++ b).extractLsb' 0 8).toNat
    _ = (Operands.le16 b c).toNat := by rw [hlow, Operands.le16]
    _ = b.toNat + 256 * c.toNat := le16_toNat b c

/-! ### The body bytes (R132) -/

/-- Settles O23 (`execLbody_of_lt`). -/
theorem bodyByteIsStored : Obligations.BodyByteIsStored := by
  intro s b hv hlt
  exact ⟨_, _, execLbody_of_lt hv hlt b, fillCount_succ (hlt.trans (by decide)), Memory.read_write_same ..,
    fun j hj => Memory.read_write_other _ _ hj⟩

/-! ### The body decode and the scan (R133, R180, R181) -/

theorem bodySlot_decodesFrom (f : Nat → Byte) (a : Nat) :
    (bodySlot f a).decodesFrom (f (4 * a)) (f (4 * a + 1)) (f (4 * a + 2)) (f (4 * a + 3)) :=
  sample_decodesFrom ..

/-- The scan of a legacy unit, with R8's geometry in lowest terms (R180). -/
theorem State.scanRecord_of_legacy {s : State} (hv : s.variant = .legacy) :
    s.scanRecord = ⟨s.acc, ⟨0, 2, 1 / 180, 3 / 50, 5⟩, .legacy s.speedRaw⟩ := by
  have hgeometry : Config.geometry .legacy = ⟨0, 2, 1 / 180, 3 / 50, 5⟩ := by norm_num [Config.geometry]
  simp only [State.scanRecord, State.telemetry, hv, hgeometry]

/-- Settles O24: what the last body byte leaves (`execLbody_of_last`), with the scan written out. -/
theorem lastBodyByteCompletesThePoll : Obligations.LastBodyByteCompletesThePoll := by
  rintro s _ f hv hc hf rfl
  obtain ⟨acc, log, hlbody, hacc⟩ := execLbody_of_last hv hc hf
  have hscan := State.scanRecord_of_legacy (s := { s.stored 1439 (f 1439) with acc := acc, log := log }) hv
  rw [State.finish, hscan] at hlbody
  refine ⟨_, acc, log, hlbody, Memory.read_write_same .., fun j hj => Memory.read_write_other _ _ hj, fun a => ?_⟩
  rw [hacc a]
  exact bodySlot_decodesFrom f a

/-- The body of a legacy frame lies inside the raw buffer of either variant. -/
theorem State.lbodyLen_le_rawLen (s : State) : 1440 ≤ s.rawLen := by
  rw [State.rawLen]
  cases s.variant <;> decide

/-- Writing slots in ascending order, each with the record it then holds, leaves the log of one pass (R37). -/
theorem passLog_eq {acc : Vector Slot 360} {rec : Nat → Slot} (h : ∀ a : Fin 360, acc[a] = rec a) :
    passLog acc = ((List.range 360).map fun a => LogEntry.slot a (rec a)).reverse := by
  simp only [passLog, h, List.map_reverse, ← List.map_coe_finRange_eq_range, List.map_map, Function.comp_def]

/-- Settles O25 (`State.decodeBody_eq`). -/
theorem bodyDecodesByPosition : Obligations.BodyDecodesByPosition := by
  intro s f hf
  obtain ⟨acc, hbody, hacc⟩ := State.decodeBody_eq fun j hj => hf.rawRead s.lbodyLen_le_rawLen hj
  rw [← passLog_eq hacc] at hbody
  refine ⟨acc, answer_next.2 hbody, fun a => ?_⟩
  rw [hacc a]
  exact bodySlot_decodesFrom f a

end Sys2Proof.Machine

/-! Proofs for `spec/43_packet_sync.md`: the packetized matcher (R140 to R142, R144), the block bytes, and the walk and
the scan that the last of them brings (R143, R157, R181). -/

namespace Sys2Proof.Machine

/-! ### The matcher (R140 to R142, R144) -/

/-- Settles O28: each operation is one update of the state (`execPs0_eq`, `execPs1_eq`). -/
theorem packetMatcherOperationsComplete : Obligations.PacketMatcherOperationsComplete := by
  intro s
  exact ⟨⟨_, execPs0_eq s, Memory.read_write_same .., fun j hj => Memory.read_write_other _ _ hj⟩,
    ⟨_, execPs1_eq s, Memory.read_write_same .., fun j hj => Memory.read_write_other _ _ hj⟩, fun _ _ => rfl⟩

/-- The map is keyed by the low bit of the count (R80); for the counts this variant has, the bit is the count (R23). -/
theorem decodePacketSearch_lowBit {c : BitVec 2} (hc : c.toNat ≤ 1) (b : Byte) :
    decodePacketSearch (c.extractLsb' 0 1) b =
      if c = 0 ∧ b = 0xFA then .ps0 else if c = 1 ∧ b = 0xA0 then .ps1 else .pmiss (c.extractLsb' 0 1) b := by
  obtain ⟨h0, h1⟩ := (by decide : ∀ c : BitVec 2, c.toNat ≤ 1 →
    (c.extractLsb' 0 1 = 0 ↔ c = 0) ∧ (c.extractLsb' 0 1 = 1 ↔ c = 1)) c hc
  simp only [decodePacketSearch, h0, h1]

/-- Settles O27: each branch of R144 is the branch of the decoder (`decodePacketSearch_lowBit`) whose operation O28
describes. -/
theorem packetMatcherTransition : Obligations.PacketMatcherTransition := by
  intro s b rest hv hp hc hh ho
  obtain ⟨hps0, hps1, hpmiss⟩ := packetMatcherOperationsComplete { s with offers := rest }
  rw [step_of_byte ho (State.busy_of_phase hp (by decide)) hh (State.decode_byteKey_packetSearch b hv hp),
    decodePacketSearch_lowBit hc]
  split_ifs with h0 h1
  · obtain ⟨-, rfl⟩ := h0
    exact hps0
  · obtain ⟨-, rfl⟩ := h1
    exact hps1
  · exact hpmiss _ _

/-! ### The block bytes (R143) -/

theorem State.rawLen_of_packetized {s : State} (hv : s.variant = .packetized) : s.rawLen = 1980 := by
  rw [State.rawLen, hv]
  rfl

/-- PFILL before the last block byte. -/
theorem execPfill_of_lt {s : State} (hv : s.variant = .packetized) (hlt : s.fillCount.toNat < 1979) (b : Byte) :
    execPfill b s = .next { s.stored s.fillCount.toNat b with fillCount := s.fillCount + 1 } := by
  have hlen := State.rawLen_of_packetized hv
  have hnot : s.fillCount ≠ 1979 := fun h => absurd (h ▸ hlt) (by decide)
  exact execPfill_next.2 ⟨_, State.rawWrite_eq_stored (by omega) b, .inr ⟨hnot, rfl⟩⟩

/-- Settles O29 (`execPfill_of_lt`). -/
theorem blockByteIsStored : Obligations.BlockByteIsStored := by
  intro s b hv hlt
  exact ⟨_, _, execPfill_of_lt hv hlt b, fillCount_succ hlt, Memory.read_write_same ..,
    fun j hj => Memory.read_write_other _ _ hj⟩

/-! ### The last block byte, the walk and the scan (R143, R157, R181) -/

/-- PFILL at the last block byte: the store, the walk of the whole block, which completes however the block looks
(`State.walkBlock_completes`), and the completion. -/
theorem execPfill_of_last {s : State} (hv : s.variant = .packetized) (hc : s.fillCount = 1979)
    (hw : s.writtenBelow 1979) (b : Byte) :
    ∃ u, (s.stored 1979 b).walkBlock = .ok u ∧ execPfill b s = .next u.finish := by
  have hlen := State.rawLen_of_packetized hv
  have hwrite : s.rawWrite s.fillCount.toNat b = .ok (s.stored 1979 b) := by
    rw [hc]
    exact State.rawWrite_eq_stored (by rw [hlen]; decide) b
  obtain ⟨u, hwalk⟩ := State.walkBlock_completes ((hw.stored b).readsBelow hlen.ge)
  exact ⟨u, hwalk, execPfill_next.2 ⟨_, hwrite, .inl ⟨hc, u, hwalk, rfl⟩⟩⟩

/-- The scan of a packetized unit, with R8's geometry in lowest terms (R180). -/
theorem State.scanRecord_of_packetized {s : State} (hv : s.variant = .packetized) :
    s.scanRecord = ⟨s.acc, ⟨0, 359 / 180, 1 / 180, 3 / 20, 5⟩, .packetized s.speedSum s.goodPackets⟩ := by
  have hgeometry : Config.geometry .packetized = ⟨0, 359 / 180, 1 / 180, 3 / 20, 5⟩ := by norm_num [Config.geometry]
  simp only [State.scanRecord, State.telemetry, hv, hgeometry]

/-- Settles O30: what the last block byte leaves (`execPfill_of_last`), with the scan written out; the walk keeps the
variant that selects its telemetry and geometry. -/
theorem lastBlockByteWalksAndCompletes : Obligations.LastBlockByteWalksAndCompletes := by
  intro s b hv hc hw
  obtain ⟨u, hwalk, hpfill⟩ := execPfill_of_last hv hc hw b
  have huv : u.variant = .packetized := (State.walkBlock_walkOnly hwalk).variant.trans hv
  rw [State.finish, State.scanRecord_of_packetized huv] at hpfill
  exact ⟨_, u, Memory.read_write_same .., fun j hj => Memory.read_write_other _ _ hj, answer_next.2 hwalk, hpfill⟩

end Sys2Proof.Machine

/-! SUPPORT and proofs for `spec/44_packet_walk.md`: how the loop of the walk ends (R156 to R158), how it comes to a
header byte near the cursor (R161), and a well-formed revolution, packet by packet (R162). -/

namespace Sys2Proof.Machine

/-! ### The loop, unrolled, continued and ended (R152, R156 to R158) -/

/-- Settles O31: both operations are one update of the state. -/
theorem skipAndCorruptMoveTheCursorOnly : Obligations.SkipAndCorruptMoveTheCursorOnly :=
  fun _ => ⟨rfl, rfl⟩

/-- Settles O59: with the fuel R158 gives, the fuel that is left after one iteration is enough again. -/
theorem walkLoopUnrolls : Obligations.WalkLoopUnrolls := by
  intro s
  have hfuel : State.walkLoop 1959 s = State.walkLoop (1959 + 1) s := State.walkLoop_fuel (by omega) (by omega)
  rw [hfuel, State.walkLoop_succ]
  simp only [State.walkGoes_iff]

theorem State.walkLoop_of_stop {s : State} (h : s.locals.stop = true) (n : Nat) : State.walkLoop n s = .ok s :=
  State.walkLoop_of_ended (by simp [State.walkGoes, h]) n

/-- Settles O40: the index selects the branch of WACCEPT that sets `stop` (`State.acceptPacket_ok`). -/
theorem walkStopsAfterIndex89 : Obligations.WalkStopsAfterIndex89 := by
  refine ⟨fun s t hidx h => ?_, fun s n h => State.walkLoop_of_stop h n⟩
  obtain ⟨speed, u, -, -, -, rfl⟩ := State.acceptPacket_ok (answer_next.1 h)
  have h89 : s.locals.idx.toNat = Config.idxMax := congrArg BitVec.toNat hidx
  rw [if_pos h89]
  exact ⟨rfl, State.walkLoop_of_stop rfl⟩

/-- Fuel beyond that of a loop that answers continues from its answer. -/
theorem State.walkLoop_add {n : Nat} {s t : State} (h : State.walkLoop n s = .ok t) (m : Nat) :
    State.walkLoop (n + m) s = State.walkLoop m t := by
  induction n generalizing s with
  | zero =>
    cases h
    rw [Nat.zero_add]
  | succ n ih =>
    cases hg : s.walkGoes with
    | false =>
      rw [State.walkLoop_of_ended hg] at h
      cases h
      rw [State.walkLoop_of_ended hg, State.walkLoop_of_ended hg]
    | true =>
      rw [State.walkLoop_succ, if_pos hg] at h
      obtain ⟨u, hu, h⟩ := except_bind_ok.1 h
      rw [Nat.add_right_comm, State.walkLoop_succ, if_pos hg, hu]
      exact ih h

/-- One iteration is a loop with fuel for one. -/
theorem State.walkLoop_one {s t : State} (hg : s.walkGoes = true) (h : s.walkIter = .ok t) :
    State.walkLoop 1 s = .ok t := by
  rw [State.walkLoop_succ, if_pos hg, h]
  rfl

/-- With fuel enough, the loop stops where no further iteration is due: one more would leave the cursor where it is, and
every iteration moves it. -/
theorem State.walkLoop_ended {n : Nat} {s t : State} (hn : 1959 ≤ n) (h : State.walkLoop n s = .ok t) :
    t.walkGoes = false := by
  by_contra hgoes
  have hg : t.walkGoes = true := (Bool.not_eq_false _).mp hgoes
  have honce : State.walkLoop 1 t = .ok t := by
    rw [← State.walkLoop_add h 1, ← h]
    exact State.walkLoop_fuel (by omega) (by omega)
  rw [State.walkLoop_succ, if_pos hg] at honce
  obtain ⟨u, hu, hut⟩ := except_bind_ok.1 honce
  cases hut
  exact absurd (State.walkIter_cursor hu).1 (by omega)

/-- Settles O35 (`State.walkLoop_fuel`, `State.walkLoop_ended`). -/
theorem walkEndsWithin1959Iterations : Obligations.WalkEndsWithin1959Iterations := by
  intro s n hn
  refine ⟨State.walkLoop_fuel (by omega) (by omega), fun t h => ?_⟩
  have hended := State.walkLoop_ended hn h
  rw [← Bool.not_eq_true, State.walkGoes_iff, not_and_or, Bool.not_eq_false] at hended
  exact hended.imp_left not_le.1

/-! ### Bytes dropped on the way to a header byte (R154, R155, R161) -/

/-- What dropping bytes leaves alone: every field but the locals, and of these `stop`. -/
def State.drops (s t : State) : Prop := ∃ loc, t = { s with locals := loc } ∧ loc.stop = s.locals.stop

theorem State.drops_refl (s : State) : s.drops s := ⟨s.locals, rfl, rfl⟩

theorem State.drops.trans {s t u : State} (h : s.drops t) (h' : t.drops u) : s.drops u := by
  obtain ⟨_, rfl, hstop⟩ := h
  obtain ⟨_, rfl, hstop'⟩ := h'
  exact ⟨_, rfl, hstop'.trans hstop⟩

theorem State.drops.stop {s t : State} (h : s.drops t) : t.locals.stop = s.locals.stop := by
  obtain ⟨_, rfl, hstop⟩ := h
  exact hstop

theorem State.drops.walkOnly {s t : State} (h : s.drops t) : s.walkOnly t := by
  obtain ⟨_, rfl, _⟩ := h
  exact ⟨_, _, _, _, _, rfl⟩

theorem State.walkOnly.holdsBytes {s t : State} {n : Nat} {f : Nat → Byte} (h : s.walkOnly t)
    (hf : s.holdsBytes n f) : t.holdsBytes n f := by
  intro j hj
  rw [h.raw]
  exact hf j hj

theorem State.walkOnly.rawLen {s t : State} (h : s.walkOnly t) : t.rawLen = s.rawLen :=
  congrArg Config.rawLen h.variant

theorem State.holdsBytes.readsBelow {s : State} {n : Nat} {f : Nat → Byte} (hf : s.holdsBytes n f)
    (hn : n ≤ s.rawLen) : s.readsBelow n :=
  fun j hj => ⟨f j, hf.rawRead hn hj⟩

section Header
variable {s : State} {f : Nat → Byte} (hf : s.holdsBytes 1980 f) (hlen : 1980 ≤ s.rawLen) {e : Nat} (he : f e = 0xFA)
include hf hlen he

/-- An iteration with a header byte ahead of the cursor, within 21 bytes, accepts nothing and does not pass that byte: as
a candidate's second byte it would be no index, and behind the candidate it is a premature header. -/
theorem State.walkIter_of_headerAhead (hfit : s.locals.cursor + 22 ≤ 1980) (hlt : s.locals.cursor < e)
    (hnear : e ≤ s.locals.cursor + 21) :
    ∃ t, s.walkIter = .ok t ∧ s.drops t ∧ t.locals.cursor ≤ e := by
  obtain ⟨t, ht⟩ := State.walkIter_completes (hf.readsBelow hlen) hfit
  obtain ⟨m, rfl⟩ := Nat.exists_eq_add_of_lt hlt
  obtain ⟨hd, x, -, hx, hcases⟩ := State.walkIter_ok ht
  have hcandidate {idx : BitVec 7} (hi : Operands.idxdec hd x = some idx) : 2 ≤ m + 1 := by
    by_contra hm
    obtain rfl : m = 0 := by omega
    obtain ⟨⟨-, -, hindex⟩, -⟩ := idxdec_eq_some_iff.1 hi
    rw [← Except.ok.inj ((hf.rawRead hlen (by omega)).symm.trans hx), he] at hindex
    exact absurd hindex (by decide)
  refine ⟨t, ht, ?_⟩
  obtain ⟨-, rfl⟩ | ⟨idx, k, hi, hk, rfl⟩ | ⟨idx, hi, hk, -⟩ := hcases
  · exact ⟨⟨_, rfl, rfl⟩, show s.locals.cursor + 1 ≤ _ by omega⟩
  · obtain ⟨-, -, -, hleast⟩ := hf.premature hlen hfit hk
    have hkm : k ≤ m + 1 := not_lt.1 fun hlt => hleast (m + 1) (hcandidate hi) hlt he
    exact ⟨⟨_, rfl, rfl⟩, show s.locals.cursor + k ≤ _ by omega⟩
  · exact absurd ⟨m + 1, hcandidate hi, by omega, he⟩ (hf.notPremature hlen hfit hk)

/-- The walk comes to a header byte that lies within 21 bytes of the cursor, and drops all before it. -/
theorem State.walkLoop_reachesHeader (hfit : e + 22 ≤ 1980) (hle : s.locals.cursor ≤ e)
    (hnear : e ≤ s.locals.cursor + 21) (hstop : s.locals.stop = false) :
    ∃ n t, State.walkLoop n s = .ok t ∧ s.drops t ∧ t.locals.cursor = e := by
  generalize hd : e - s.locals.cursor = d
  induction d using Nat.strong_induction_on generalizing s with
  | _ d ih =>
    obtain hat | hlt := hle.eq_or_lt
    · exact ⟨0, s, rfl, s.drops_refl, hat⟩
    · have hg : s.walkGoes = true := State.walkGoes_iff.2 ⟨by omega, hstop⟩
      obtain ⟨u, hu, hdrop, hue⟩ := State.walkIter_of_headerAhead hf hlen he (by omega) hlt hnear
      have hmoves := (State.walkIter_cursor hu).1
      obtain ⟨n, t, ht, hdrop', hte⟩ := ih _ (by omega) (hdrop.walkOnly.holdsBytes hf)
        (hlen.trans_eq hdrop.walkOnly.rawLen.symm) hue (by omega) (hdrop.stop.trans hstop) rfl
      exact ⟨1 + n, t, (State.walkLoop_add (State.walkLoop_one hg hu) n).trans ht, hdrop.trans hdrop', hte⟩

end Header

/-- Settles O39: the walk comes to the spurious header byte, and from there to the one at the packet's end
(`State.walkLoop_reachesHeader`), whatever the bytes between them are. -/
theorem spuriousHeaderResynchronises : Obligations.SpuriousHeaderResynchronises := by
  intro s f i k hv hf hc hstop hfit _ _ _ h2 h21 hk _ hend
  have hlen : 1980 ≤ s.rawLen := (State.rawLen_of_packetized hv).ge
  obtain ⟨n, u, hu, hdrop, huc⟩ :=
    State.walkLoop_reachesHeader hf hlen hk (by omega) (by omega) (by omega) hstop
  obtain ⟨m, t, ht, hdrop', htc⟩ :=
    State.walkLoop_reachesHeader (hdrop.walkOnly.holdsBytes hf) (hlen.trans_eq hdrop.walkOnly.rawLen.symm) hend
      (by omega) (by omega) (by omega) (hdrop.stop.trans hstop)
  obtain ⟨loc, rfl, hloc⟩ := hdrop.trans hdrop'
  exact ⟨n + m, _, (State.walkLoop_add hu m).trans ht, htc, hloc.trans hstop, rfl, rfl, rfl⟩

/-! ### A well-formed revolution (R162) -/

/-- The block holds 90 packets in order, with no header byte inside any of them (R162). -/
def WellFormedRevolution (f : Nat → Byte) : Prop :=
  ∀ p < 90, f (22 * p) = 0xFA ∧ (f (22 * p + 1)).toNat = 160 + p ∧ ∀ k, 2 ≤ k → k ≤ 21 → f (22 * p + k) ≠ 0xFA

/-- The raw speed of packet `p` of a revolution (R107). -/
def revolutionSpeed (f : Nat → Byte) (p : Nat) : Nat := (f (22 * p + 2)).toNat + 256 * (f (22 * p + 3)).toNat

/-- The slot of angle `a` of a revolution: the sample lies in packet `a / 4` (R109). -/
def revolutionSlot (f : Nat → Byte) (a : Nat) : Slot := packetSlot f (22 * (a / 4)) a

theorem revolutionSpeed_le (f : Nat → Byte) (p : Nat) : revolutionSpeed f p ≤ 65535 := by
  have hlo := (f (22 * p + 2)).isLt
  have hhi := (f (22 * p + 3)).isLt
  rw [revolutionSpeed]
  omega

/-- The sum of a revolution's speeds fits in its 23 bits (R110). -/
theorem sum_revolutionSpeed_lt (f : Nat → Byte) : ∑ p ∈ Finset.range 90, revolutionSpeed f p < 2 ^ 23 := by
  have hle := Finset.sum_le_card_nsmul (Finset.range 90) (revolutionSpeed f) 65535 fun p _ => revolutionSpeed_le f p
  rw [Finset.card_range] at hle
  exact hle.trans_lt (by decide)

theorem zeroExtend_speed (f : Nat → Byte) (p : Nat) :
    (f (22 * p + 3) ++ f (22 * p + 2)).zeroExtend 23 = BitVec.ofNat 23 (revolutionSpeed f p) := by
  rw [revolutionSpeed, ← le16_toNat, BitVec.ofNat_toNat]
  rfl

theorem revolutionSlot_of_packet (f : Nat → Byte) {p a : Nat} (h : a / 4 = p) :
    revolutionSlot f a = packetSlot f (22 * p) a := by
  rw [revolutionSlot, h]

/-- The slot writes of the first `p` packets, as the event log (newest first) shows them (R37). -/
def revolutionLog (f : Nat → Byte) (p : Nat) : List LogEntry :=
  ((List.range (4 * p)).map fun a => LogEntry.slot a (revolutionSlot f a)).reverse

/-- The four slot writes of packet `p` (`State.acceptPacket_eq`) carry the log on: its angles follow those of the packets
before it. -/
theorem revolutionLog_succ (f : Nat → Byte) {p : Nat} {idx : BitVec 7} (h : idx.toNat = p) :
    (sampleNumbers.map fun o => LogEntry.slot (Operands.angle idx o).toNat
      (packetSlot f (22 * p) (Operands.angle idx o).toNat)).reverse ++ revolutionLog f p = revolutionLog f (p + 1) := by
  have hangles : (List.range 4).map (4 * p + ·) = sampleNumbers.map fun o => (Operands.angle idx o).toNat := by
    simp only [angle_toNat, h]
    rfl
  have hentries : (sampleNumbers.map fun o => LogEntry.slot (Operands.angle idx o).toNat
      (packetSlot f (22 * p) (Operands.angle idx o).toNat)) =
      ((List.range 4).map (4 * p + ·)).map fun a => LogEntry.slot a (revolutionSlot f a) := by
    rw [hangles, List.map_map]
    refine List.map_congr_left fun o _ => ?_
    have hpacket : (Operands.angle idx o).toNat / 4 = p := by
      rw [angle_toNat]
      omega
    rw [Function.comp_apply, revolutionSlot_of_packet f hpacket]
  rw [hentries, revolutionLog, revolutionLog, Nat.mul_succ, List.range_add, List.map_append, List.reverse_append]

/-- From `s` the walk has come to `t`, having accepted the first `p` packets of the revolution `f`. -/
structure PacketsRead (f : Nat → Byte) (s : State) (p : Nat) (t : State) : Prop where
  rest : s.walkOnly t
  cursor : t.locals.cursor = 22 * p
  stop : t.locals.stop = decide (p = 90)
  goodPackets : t.goodPackets = BitVec.ofNat 7 p
  speedSum : t.speedSum = BitVec.ofNat 23 (∑ q ∈ Finset.range p, revolutionSpeed f q)
  slots : ∀ a : Fin 360, a.val / 4 < p → t.acc[a] = revolutionSlot f a
  log : t.log = revolutionLog f p ++ s.log

theorem PacketsRead.zero {s : State} (f : Nat → Byte) (hs : s.speedSum = 0) (hg : s.goodPackets = 0) :
    PacketsRead f s 0 { s with locals := Locals.init } where
  rest := ⟨_, _, _, _, _, rfl⟩
  cursor := rfl
  stop := rfl
  goodPackets := hg
  speedSum := hs
  slots _ ha := absurd ha (Nat.not_lt_zero _)
  log := rfl

/-- In a packet with no header byte inside, the scan for a premature header answers none (R155). -/
theorem State.holdsBytes.firstHeader_eq_none {s : State} {f : Nat → Byte} (hf : s.holdsBytes 1980 f)
    (hlen : 1980 ≤ s.rawLen) {i : Nat} (hi : i + 22 ≤ 1980) (h : ∀ k, 2 ≤ k → k ≤ 21 → f (i + k) ≠ 0xFA) :
    s.firstHeader i scanOffsets = .ok none := by
  obtain ⟨r, hr⟩ := State.firstHeader_completes (i := i) (ks := scanOffsets) (hf.readsBelow hlen) fun k hk => by
    have := mem_scanOffsets.1 hk
    omega
  cases r with
  | none => exact hr
  | some k =>
    obtain ⟨h2, h21, hk, -⟩ := hf.premature hlen hi hr
    exact absurd hk (h k h2 h21)

section Revolution
variable {s : State} {f : Nat → Byte} (hw : WellFormedRevolution f) (hlen : 1980 ≤ s.rawLen)
  (hf : s.holdsBytes 1980 f)
include hw hlen hf

/-- The iteration at packet `p` accepts it. -/
theorem PacketsRead.walkIter {t : State} {p : Nat} (h : PacketsRead f s p t) (hp : p < 90) :
    ∃ u, t.walkIter = .ok u ∧ PacketsRead f s (p + 1) u := by
  obtain ⟨hheader, hindex, hinside⟩ := hw p hp
  obtain ⟨hrest, hcursor, hstop, hgood, hsum, hslots, hlog⟩ := h
  have hlen' : 1980 ≤ t.rawLen := hlen.trans_eq hrest.rawLen.symm
  have hf' : t.holdsBytes 1980 f := hrest.holdsBytes hf
  have hidx : (BitVec.ofNat 7 p).toNat = p := (BitVec.toNat_ofNat ..).trans (Nat.mod_eq_of_lt (hp.trans (by decide)))
  have hi : Operands.idxdec (f (22 * p)) (f (22 * p + 1)) = some (BitVec.ofNat 7 p) :=
    idxdec_eq_some_iff.2 ⟨⟨hheader, by omega, by omega⟩, by omega⟩
  have hscan := hf'.firstHeader_eq_none hlen' (i := 22 * p) (by omega) hinside
  have h1 := hf'.rawRead hlen' (j := 22 * p) (by omega)
  have h2 := hf'.rawRead hlen' (j := 22 * p + 1) (by omega)
  rw [← hcursor] at h1 h2 hscan
  obtain ⟨acc, haccept, hacc⟩ := State.acceptPacket_eq
    (s := (t.setCandidate (some (BitVec.ofNat 7 p))).setPremature none) (idx := BitVec.ofNat 7 p) (f := f)
    hcursor (by omega) fun j _ hj => hf'.rawRead hlen' (by omega)
  refine ⟨_, (State.walkIter_of_packet h1 h2 (hcursor ▸ hi) hscan).trans haccept, ?_⟩
  constructor
  case rest => exact hrest.trans ⟨_, _, _, _, _, rfl⟩
  case cursor => exact (Nat.mul_succ 22 p).symm
  case stop =>
    have hgoes : t.locals.stop = false := hstop.trans (decide_eq_false (by omega))
    simp [hgoes, hidx]
  case goodPackets =>
    rw [BitVec.ofNat_add, ← hgood]
    rfl
  case speedSum =>
    rw [Finset.sum_range_succ, BitVec.ofNat_add, ← hsum, ← zeroExtend_speed]
    rfl
  case slots =>
    intro a ha
    rw [hacc a, hidx]
    split_ifs with hpacket
    · exact (revolutionSlot_of_packet f hpacket).symm
    · exact hslots a (by omega)
  case log =>
    rw [← revolutionLog_succ f hidx, List.append_assoc, ← hlog]
    rfl

/-- The loop accepts the packets one after the other. -/
theorem PacketsRead.walkLoop (hs : s.speedSum = 0) (hg : s.goodPackets = 0) {p : Nat} (hp : p ≤ 90) :
    ∃ t, State.walkLoop p { s with locals := Locals.init } = .ok t ∧ PacketsRead f s p t := by
  induction p with
  | zero => exact ⟨_, rfl, PacketsRead.zero f hs hg⟩
  | succ p ih =>
    obtain ⟨t, ht, hread⟩ := ih (by omega)
    obtain ⟨u, hu, hread'⟩ := hread.walkIter hw hlen hf (by omega)
    have hgoes : t.walkGoes = true := by
      rw [State.walkGoes_iff, hread.cursor, hread.stop, decide_eq_false_iff_not]
      omega
    exact ⟨u, (State.walkLoop_add ht 1).trans (State.walkLoop_one hgoes hu), hread'⟩

/-- The walk of a well-formed revolution ends with its 90 packets read. -/
theorem WellFormedRevolution.walkBlock (hs : s.speedSum = 0) (hg : s.goodPackets = 0) :
    ∃ t, s.walkBlock = .ok { t with locals := Locals.init } ∧ PacketsRead f s 90 t := by
  obtain ⟨t, ht, hread⟩ := PacketsRead.walkLoop hw hlen hf hs hg le_rfl
  have hloop : State.walkLoop (90 + 1869) { s with locals := Locals.init } = .ok t :=
    (State.walkLoop_add ht 1869).trans (State.walkLoop_of_stop hread.stop 1869)
  refine ⟨t, ?_, hread⟩
  rw [State.walkBlock_eq, hloop]
  rfl

end Revolution

/-- The four samples of packet `p` of a revolution, by the bytes they come from (R77). -/
theorem revolutionSlot_decodesFrom (f : Nat → Byte) (p : Nat) (o : Fin 4) :
    (revolutionSlot f (4 * p + o)).decodesFrom (f (22 * p + 4 + 4 * o)) (f (22 * p + 5 + 4 * o))
      (f (22 * p + 6 + 4 * o)) (f (22 * p + 7 + 4 * o)) := by
  have hpacket : (4 * p + o.val) / 4 = p := by omega
  have hsample : (4 * p + o.val) % 4 = o := by omega
  rw [revolutionSlot_of_packet f hpacket, packetSlot, hsample]
  exact sample_decodesFrom ..

/-- Settles O38: what is left when all 90 packets are read (`WellFormedRevolution.walkBlock`). -/
theorem wellFormedRevolutionIsDecoded : Obligations.WellFormedRevolutionIsDecoded := by
  intro s f hv hs hg hf hw
  obtain ⟨t, hwalk, hread⟩ :=
    WellFormedRevolution.walkBlock hw (State.rawLen_of_packetized hv).ge hf hs hg
  obtain ⟨⟨sum, good, acc, loc, log, rfl⟩, -, -, hgood, hsum, hslots, hlog⟩ := hread
  have hacc : ∀ a : Fin 360, acc[a] = revolutionSlot f a := fun a => hslots a (by omega)
  have hlog' : log = passLog acc ++ s.log := hlog.trans (by rw [passLog_eq hacc]; rfl)
  have hgood' : good = 90 := hgood
  have hsum' : sum = BitVec.ofNat 23 (∑ p ∈ Finset.range 90, revolutionSpeed f p) := hsum
  refine ⟨sum, acc, ?_, ?_, fun p o => ?_⟩
  · rw [← hlog', ← hgood']
    exact answer_next.2 hwalk
  · rw [hsum', BitVec.toNat_ofNat, Nat.mod_eq_of_lt (sum_revolutionSpeed_lt f)]
    rfl
  · exact (hacc ⟨4 * p.val + o.val, by omega⟩).symm ▸ revolutionSlot_decodesFrom f p o

end Sys2Proof.Machine

/-! SUPPORT and proofs for `spec/45_scan_accumulator.md`: the slot operations and the views (R170 to R181), and the
independence of revolutions (R173) as a simulation. Two units that a POLL has brought into `SamePoll` stay in it at
every step, because what the decode of a full frame reads is among what `SamePoll` relates. -/

namespace Sys2Proof.Machine

/-! ### Slots (R170, R171, R181) -/

/-- Settles O47: the default slot is the record of four zeros (`clearedSlots_getElem`). -/
theorem reinitClearsEverySlot : Obligations.ReinitClearsEverySlot := by
  intro s
  exact ⟨clearedSlots, rfl, clearedSlots_getElem⟩

/-- Settles O48: both sides of the bound that a slot write checks (`State.slotWrite_ok`). -/
theorem slotWriteOverwritesOneSlot : Obligations.SlotWriteOverwritesOneSlot := by
  intro s a rec
  refine ⟨fun ha => ?_, fun ha => ?_⟩
  · refine ⟨s.acc.set a.toNat rec ha, answer_next.2 (State.slotWrite_ok.2 ⟨ha, rfl⟩), fun b => ?_⟩
    simp [Vector.getElem_set, eq_comm (a := b.val)]
  · have hfault : s.slotWrite a.toNat rec = .error .slotBounds := dif_neg (by omega)
    exact congrArg answer hfault

/-- Settles O49: the record of R180 for each variant (`State.scanRecord_of_legacy`,
`State.scanRecord_of_packetized`). -/
theorem completeReturnsTheScan : Obligations.CompleteReturnsTheScan := by
  intro s
  have hexec : exec .complete s = .next { s with result := .scan s.scanRecord, phase := .idle } := rfl
  refine ⟨fun hv => ?_, fun hv => ?_⟩
  · rw [hexec, State.scanRecord_of_legacy hv]
  · rw [hexec, State.scanRecord_of_packetized hv]

/-! ### Views (R175 to R179) -/

theorem Views.rpmOf_eq (sum : BitVec 23) (n : BitVec 7) :
    Views.rpmOf sum n = if n = 0 then 0 else (sum.toNat : ℚ) / (64 * n.toNat) := by
  rw [Views.rpmOf, div_div]

/-- Without a packet, or with a zero sum, the speed is 0, and so is the closed form. -/
theorem Views.scanTimeOf_eq (sum : BitVec 23) (n : BitVec 7) :
    Views.scanTimeOf sum n = if sum = 0 then 0 else 3840 * (n.toNat : ℚ) / sum.toNat := by
  rw [Views.scanTimeOf, Views.rpmOf_eq]
  by_cases hn : n = 0
  · simp [hn]
  by_cases hs : sum = 0
  · simp [hs]
  have hn' : (0 : ℚ) < n.toNat := Nat.cast_pos.2 (by bv_omega)
  have hs' : (0 : ℚ) < sum.toNat := Nat.cast_pos.2 (by bv_omega)
  have hrpm : (0 : ℚ) < sum.toNat / (64 * n.toNat) := by positivity
  rw [if_neg hn, if_neg hs, if_pos hrpm]
  field_simp
  norm_num

/-- Settles O50 (`Views.rpmOf_eq`, `Views.scanTimeOf_eq`). -/
theorem packetizedTimingViews : Obligations.PacketizedTimingViews := by
  intro c sum n h
  simp only [Scan.rpm?, Scan.scanTime?, Scan.timeIncrement, h, Views.rpmOf_eq, Views.scanTimeOf_eq, and_self]

/-- Settles O51: each view is the quotient that its rule names. -/
theorem legacyTimingAndSampleViews : Obligations.LegacyTimingAndSampleViews := by
  intro c
  refine ⟨fun v h => ?_, fun sum n h => ?_, fun a => ⟨rfl, rfl⟩⟩
  · simp only [Scan.rpm?, Scan.scanTime?, Scan.timeIncrement, h, and_self]
  · have htime : c.timeIncrement = Views.scanTimeOf sum n / 360 := by rw [Scan.timeIncrement, h]
    have hscan : c.scanTime? = some (Views.scanTimeOf sum n) := by rw [Scan.scanTime?, h]
    exact ⟨_, hscan, htime, fun h0 => by rw [htime, h0, zero_div]⟩

/-! ### The decode of a full frame reads the raw buffer, the accumulator and the walk's locals only (R133, R152) -/

/-- Two states that hold the same frame and have accumulated alike. -/
structure SameFrame (s s' : State) : Prop where
  variant : s.variant = s'.variant
  reads : ∀ j, s.rawRead j = s'.rawRead j
  acc : s.acc = s'.acc
  speedSum : s.speedSum = s'.speedSum
  goodPackets : s.goodPackets = s'.goodPackets

/-- Two walks of the same frame, at the same cursor. -/
structure SameWalk (s s' : State) : Prop extends SameFrame s s' where
  locals : s.locals = s'.locals

section Frame
variable {s s' t : State}

theorem SameFrame.sampleAt (h : SameFrame s s') (j : Nat) : s.sampleAt j = s'.sampleAt j := by
  simp only [State.sampleAt, h.reads]

theorem SameFrame.rawRead2 (h : SameFrame s s') (j : Nat) : s.rawRead2 j = s'.rawRead2 j := by
  simp only [State.rawRead2, h.reads]

theorem SameFrame.firstHeader (h : SameFrame s s') (i : Nat) (ks : List Nat) :
    s.firstHeader i ks = s'.firstHeader i ks := by
  induction ks with
  | nil => rfl
  | cons k ks ih => simp only [State.firstHeader, h.reads, ih]

theorem SameFrame.slotWrite (h : SameFrame s s') {a : Nat} {rec : Slot} (ht : s.slotWrite a rec = .ok t) :
    ∃ t', s'.slotWrite a rec = .ok t' ∧ SameFrame t t' := by
  obtain ⟨ha, rfl⟩ := State.slotWrite_ok.1 ht
  exact ⟨_, State.slotWrite_ok.2 ⟨ha, rfl⟩, { h with acc := congrArg (·.set a rec ha) h.acc }⟩

theorem SameFrame.decodeSlot (h : SameFrame s s') {a : Nat} (ht : s.decodeSlot a = .ok t) :
    ∃ t', s'.decodeSlot a = .ok t' ∧ SameFrame t t' := by
  obtain ⟨rec, hrec, hw⟩ := except_bind_ok.1 ht
  obtain ⟨t', hw', h'⟩ := h.slotWrite hw
  exact ⟨t', except_bind_ok.2 ⟨rec, h.sampleAt _ ▸ hrec, hw'⟩, h'⟩

/-- A relation that each step of a fold keeps, the fold keeps. -/
theorem foldlM_simulates {α : Type} {R : State → State → Prop} {f g : State → α → Except Fault State}
    (hf : ∀ s s' t x, R s s' → f s x = .ok t → ∃ t', g s' x = .ok t' ∧ R t t') {l : List α} (h : R s s')
    (ht : l.foldlM f s = .ok t) : ∃ t', l.foldlM g s' = .ok t' ∧ R t t' := by
  induction l generalizing s s' with
  | nil => cases ht; exact ⟨s', rfl, h⟩
  | cons x l ih =>
    rw [List.foldlM_cons] at ht
    obtain ⟨u, hu, ht⟩ := except_bind_ok.1 ht
    obtain ⟨u', hu', h'⟩ := hf _ _ _ _ h hu
    obtain ⟨t', ht', hR⟩ := ih h' ht
    exact ⟨t', by rw [List.foldlM_cons]; exact except_bind_ok.2 ⟨u', hu', ht'⟩, hR⟩

theorem SameFrame.decodeBody (h : SameFrame s s') (ht : s.decodeBody = .ok t) :
    ∃ t', s'.decodeBody = .ok t' ∧ SameFrame t t' :=
  foldlM_simulates (fun _ _ _ _ hR hu => hR.decodeSlot hu) h ht

end Frame

section Walk
variable {s s' t : State}

theorem State.slotsOnly.locals (h : s.slotsOnly t) : t.locals = s.locals := by
  obtain ⟨_, _, rfl⟩ := h
  rfl

theorem SameWalk.acceptSample (h : SameWalk s s') {i : Nat} {idx : BitVec 7} {o : BitVec 2}
    (ht : s.acceptSample i idx o = .ok t) : ∃ t', s'.acceptSample i idx o = .ok t' ∧ SameWalk t t' := by
  obtain ⟨rec, hrec, hw⟩ := except_bind_ok.1 ht
  obtain ⟨t', hw', h'⟩ := h.slotWrite hw
  have hloc : t.locals = t'.locals := by
    rw [(State.slotWrite_slotsOnly hw).locals, (State.slotWrite_slotsOnly hw').locals, h.locals]
  exact ⟨t', except_bind_ok.2 ⟨rec, h.sampleAt _ ▸ hrec, hw'⟩, { h' with locals := hloc }⟩

theorem SameWalk.advance (h : SameWalk s s') (n : Nat) : SameWalk (s.advance n) (s'.advance n) :=
  { h with locals := by simp [h.locals] }

theorem SameWalk.setStop (h : SameWalk s s') : SameWalk s.setStop s'.setStop :=
  { h with locals := by simp [h.locals] }

theorem SameWalk.setCandidate (h : SameWalk s s') (c : Option (BitVec 7)) :
    SameWalk (s.setCandidate c) (s'.setCandidate c) := by
  cases c <;> exact { h with locals := by simp [State.setCandidate, h.locals] }

theorem SameWalk.setPremature (h : SameWalk s s') (k : Option Nat) :
    SameWalk (s.setPremature k) (s'.setPremature k) := by
  cases k <;> exact { h with locals := by simp [State.setPremature, h.locals] }

theorem SameWalk.countPacket (h : SameWalk s s') (v : BitVec 16) : SameWalk (s.countPacket v) (s'.countPacket v) :=
  { h with speedSum := by simp [h.speedSum], goodPackets := by simp [h.goodPackets] }

theorem SameWalk.acceptPacket (h : SameWalk s s') {idx : BitVec 7} (ht : s.acceptPacket idx = .ok t) :
    ∃ t', s'.acceptPacket idx = .ok t' ∧ SameWalk t t' := by
  obtain ⟨speed, u, hspeed, -, hu, rfl⟩ := State.acceptPacket_ok ht
  obtain ⟨u', hu', h'⟩ := foldlM_simulates (g := fun u o => u.acceptSample s.locals.cursor idx o)
    (fun _ _ _ _ hR ho => hR.acceptSample ho) (h.countPacket speed) hu
  rw [h.locals] at hspeed hu'
  rw [h.rawRead2] at hspeed
  refine ⟨_, except_bind_ok.2 ⟨speed, hspeed, except_bind_ok.2 ⟨u', hu', rfl⟩⟩, ?_⟩
  split_ifs
  · exact h'.setStop.advance _
  · exact h'.advance _

theorem SameWalk.walkIter (h : SameWalk s s') (ht : s.walkIter = .ok t) :
    ∃ t', s'.walkIter = .ok t' ∧ SameWalk t t' := by
  obtain ⟨hd, x, h1, h2, hcases⟩ := State.walkIter_ok ht
  rw [h.reads, h.locals] at h1 h2
  rw [h.firstHeader, h.locals] at hcases
  obtain ⟨hi, rfl⟩ | ⟨idx, k, hi, hk, rfl⟩ | ⟨idx, hi, hk, hp⟩ := hcases
  · exact ⟨_, State.walkIter_of_skip h1 h2 hi, (h.setCandidate _).advance _⟩
  · exact ⟨_, State.walkIter_of_premature h1 h2 hi hk, ((h.setCandidate _).setPremature _).advance _⟩
  · rw [State.walkIter_of_packet h1 h2 hi hk]
    exact ((h.setCandidate _).setPremature _).acceptPacket hp

theorem SameWalk.walkLoop (h : SameWalk s s') {n : Nat} (ht : State.walkLoop n s = .ok t) :
    ∃ t', State.walkLoop n s' = .ok t' ∧ SameWalk t t' := by
  induction n generalizing s s' with
  | zero => cases ht; exact ⟨s', rfl, h⟩
  | succ n ih =>
    have hgoes : s'.walkGoes = s.walkGoes := by rw [State.walkGoes, State.walkGoes, h.locals]
    rw [State.walkLoop_succ] at ht ⊢
    rw [hgoes]
    split_ifs at ht ⊢
    · obtain ⟨u, hu, ht⟩ := except_bind_ok.1 ht
      obtain ⟨u', hu', h'⟩ := h.walkIter hu
      obtain ⟨t', ht', hw⟩ := ih h' ht
      exact ⟨t', except_bind_ok.2 ⟨u', hu', ht'⟩, hw⟩
    · cases ht
      exact ⟨s', rfl, h⟩

/-- The walk makes its locals itself, so that of two states which hold the same frame only the frame counts (R24). -/
theorem SameFrame.walkBlock (h : SameFrame s s') (ht : s.walkBlock = .ok t) :
    ∃ t', s'.walkBlock = .ok t' ∧ SameFrame t t' := by
  obtain ⟨u, hu, rfl⟩ := State.walkBlock_ok ht
  have hstart : SameWalk { s with locals := Locals.init } { s' with locals := Locals.init } := { h with locals := rfl }
  obtain ⟨u', hu', h'⟩ := hstart.walkLoop hu
  exact ⟨_, except_bind_ok.2 ⟨u', hu', rfl⟩, { h' with }⟩

end Walk

/-! ### What the events do to two units alike (R173) -/

section Alike
variable {s s' t t' : State}

theorem SamePoll.busy_eq (h : SamePoll s s') : s'.busy = s.busy := by
  rw [State.busy, State.busy, h.phase]

/-- In IDLE nothing counts that an earlier `poll()` has left, but for the result. -/
theorem SamePoll.of_idle (hp : t.phase = .idle) (hp' : t'.phase = .idle) (hv : t.variant = t'.variant)
    (hc : t.startCount = t'.startCount) (hr : t.result = t'.result) (ho : t.offers = t'.offers)
    (hh : t.held = t'.held) (he : t.eventsOnly) : SamePoll t t' := by
  constructor <;> simp_all [State.busy]

/-- What two units alike in an outstanding `poll()` agree in, whatever its phase. -/
structure OutstandingAlike (s s' : State) : Prop where
  variant : s.variant = s'.variant
  startCount : s.startCount = s'.startCount
  result : s.result = s'.result
  offers : s.offers = s'.offers
  held : s.held = s'.held
  acc : s.acc = s'.acc
  speedSum : s.speedSum = s'.speedSum
  goodPackets : s.goodPackets = s'.goodPackets
  events : s.eventsOnly

theorem SamePoll.outstanding (h : SamePoll s s') (hb : s.busy = true) : OutstandingAlike s s' :=
  have ⟨hacc, hsum, hgood⟩ := h.accumulated hb
  ⟨h.variant, h.startCount, h.result, h.offers, h.held, hacc, hsum, hgood, h.events⟩

/-- In SEARCH the header byte counts, once the packetized matcher has stored it. -/
theorem SamePoll.of_search (hp : t.phase = .search) (hp' : t'.phase = .search) (h : OutstandingAlike t t')
    (hh : t.variant = .packetized → t.startCount ≠ 0 → Memory.read t.raw 0 = Memory.read t'.raw 0) :
    SamePoll t t' := by
  obtain ⟨hv, hc, hr, ho, hheld, hacc, hsum, hgood, he⟩ := h
  constructor <;> simp_all

/-- In SPEED the low half of `speed_raw` counts, once it has been read. -/
theorem SamePoll.of_speed (hp : t.phase = .speed) (hp' : t'.phase = .speed) (h : OutstandingAlike t t')
    (hf : t.fillCount = t'.fillCount)
    (hl : t.fillCount ≠ 0 → t.speedRaw.extractLsb' 0 8 = t'.speedRaw.extractLsb' 0 8) : SamePoll t t' := by
  obtain ⟨hv, hc, hr, ho, hheld, hacc, hsum, hgood, he⟩ := h
  constructor <;> simp_all

/-- In FILL the bytes read so far count, and in the Legacy variant the speed. -/
theorem SamePoll.of_fill (hp : t.phase = .fill) (hp' : t'.phase = .fill) (h : OutstandingAlike t t')
    (hf : t.fillCount = t'.fillCount) (hs : t.variant = .legacy → t.speedRaw = t'.speedRaw)
    (hr : ∀ j < t.fillCount.toNat, Memory.read t.raw j = Memory.read t'.raw j) : SamePoll t t' := by
  obtain ⟨hv, hc, hres, ho, hheld, hacc, hsum, hgood, he⟩ := h
  constructor <;> simp_all

/-! ### The host's events and the failure (R190 to R192) -/

theorem SamePoll.withOffers (h : SamePoll s s') {offers : List Offer} (ho : offers ⊆ s.offers) :
    SamePoll { s with offers := offers } { s' with offers := offers } :=
  { h with offers := rfl, events := fun k hk => h.events k (ho hk) }

theorem SamePoll.withHeld (h : SamePoll s s') (held : List SourceEvent) :
    SamePoll { s with held := held } { s' with held := held } :=
  { h with held := rfl }

theorem SamePoll.resetUnit (h : SamePoll s s') : SamePoll s.resetUnit s'.resetUnit :=
  SamePoll.of_idle rfl rfl h.variant rfl rfl h.offers h.held h.events

theorem SamePoll.raiseTransportFailure (h : SamePoll s s') :
    SamePoll s.raiseTransportFailure s'.raiseTransportFailure :=
  SamePoll.of_idle rfl rfl h.variant rfl rfl h.offers h.held h.events

/-- POLL makes alike any two units of one variant for which the same events are pending (R173, R190). -/
theorem samePoll_startPoll (hv : s.variant = s'.variant) (ho : s.offers = s'.offers) (hh : s.held = s'.held)
    (he : s.eventsOnly) : SamePoll s.startPoll s'.startPoll :=
  SamePoll.of_search rfl rfl ⟨hv, rfl, rfl, ho, hh, rfl, rfl, rfl, he⟩ fun _ hc => absurd rfl hc

/-! ### The bytes of the matchers (R120 to R125, R140 to R144) -/

theorem SamePoll.legacySearch (h : SamePoll s s') (hv : s.variant = .legacy) (hp : s.phase = .search) (cc : BitVec 2)
    (b : Byte) (ht : exec (decodeLegacySearch cc b) s = .next t) :
    ∃ t', exec (decodeLegacySearch cc b) s' = .next t' ∧ SamePoll t t' := by
  have ho := h.outstanding (State.busy_of_phase hp (by decide))
  have hcount (c : BitVec 2) : SamePoll { s with startCount := c } { s' with startCount := c } :=
    SamePoll.of_search hp (h.phase ▸ hp) { ho with startCount := rfl } (by simp [hv])
  unfold decodeLegacySearch at ht ⊢
  split_ifs at ht ⊢ <;> cases ht
  · exact ⟨_, rfl, hcount 1⟩
  · exact ⟨_, rfl, hcount 2⟩
  · exact ⟨_, rfl, hcount 3⟩
  · exact ⟨_, rfl, SamePoll.of_speed rfl rfl { ho with startCount := rfl } rfl fun hf => absurd rfl hf⟩
  · exact ⟨_, rfl, hcount 0⟩

/-- Buffers that agree at some offsets agree there after the same store, and at its offset. -/
theorem Memory.read_write_congr {m m' : Memory} {j k : Nat} (b : Byte)
    (h : k ≠ j → Memory.read m k = Memory.read m' k) :
    Memory.read (Memory.write m j b) k = Memory.read (Memory.write m' j b) k := by
  by_cases hk : k = j
  · rw [hk, Memory.read_write_same, Memory.read_write_same]
  · rw [Memory.read_write_other _ _ hk, Memory.read_write_other _ _ hk, h hk]

theorem SamePoll.packetSearch (h : SamePoll s s') (hv : s.variant = .packetized) (hp : s.phase = .search) (b : Byte)
    (ht : exec (decodePacketSearch (s.startCount.extractLsb' 0 1) b) s = .next t) :
    ∃ t', exec (decodePacketSearch (s'.startCount.extractLsb' 0 1) b) s' = .next t' ∧ SamePoll t t' := by
  have ho := h.outstanding (State.busy_of_phase hp (by decide))
  have hp' : s'.phase = .search := h.phase ▸ hp
  rw [← h.startCount]
  unfold decodePacketSearch at ht ⊢
  split_ifs at ht ⊢ with h0 h1
  · cases (execPs0_eq s).symm.trans ht
    exact ⟨_, execPs0_eq s', SamePoll.of_search hp hp' { ho with startCount := rfl }
      fun _ _ => Memory.read_write_congr _ (absurd rfl)⟩
  · have hheader : Memory.read s.raw 0 = Memory.read s'.raw 0 := h.header hp hv fun hc => by simp [hc] at h1
    cases (execPs1_eq s).symm.trans ht
    refine ⟨_, execPs1_eq s', SamePoll.of_fill rfl rfl { ho with startCount := rfl } rfl (by simp [hv]) fun j hj => ?_⟩
    refine Memory.read_write_congr _ fun hj1 => ?_
    obtain rfl : j = 0 := by
      have : j < 2 := hj
      omega
    exact hheader
  · cases ht
    exact ⟨_, rfl, SamePoll.of_search hp hp' { ho with startCount := rfl } fun _ hc => absurd rfl hc⟩

/-! ### The bytes of a frame (R130 to R133, R143, R152) -/

theorem SamePoll.lspd0 (h : SamePoll s s') (hp : s.phase = .speed) (b : Byte) (ht : execLspd0 b s = .next t) :
    ∃ t', execLspd0 b s' = .next t' ∧ SamePoll t t' := by
  cases ht
  refine ⟨_, rfl, SamePoll.of_speed hp (h.phase ▸ hp)
    { h.outstanding (State.busy_of_phase hp (by decide)) with } rfl fun _ => ?_⟩
  exact BitVec.extractLsb'_append_eq_right.trans BitVec.extractLsb'_append_eq_right.symm

theorem SamePoll.lspd1 (h : SamePoll s s') (hp : s.phase = .speed) (hf : s.fillCount ≠ 0) (b : Byte)
    (ht : execLspd1 b s = .next t) : ∃ t', execLspd1 b s' = .next t' ∧ SamePoll t t' := by
  cases ht
  exact ⟨_, rfl, SamePoll.of_fill rfl rfl { h.outstanding (State.busy_of_phase hp (by decide)) with } rfl
    (fun _ => congrArg (b ++ ·) (h.speedLow hp hf)) fun j hj => absurd hj (Nat.not_lt_zero j)⟩

/-- After the same store both buffers agree up to its offset (R65). -/
theorem SamePoll.read_stored (h : SamePoll s s') (hp : s.phase = .fill) (b : Byte) {j : Nat}
    (hj : j < s.fillCount.toNat + 1) :
    Memory.read (s.stored s.fillCount.toNat b).raw j = Memory.read (s'.stored s'.fillCount.toNat b).raw j := by
  rw [← h.fillCount (.inr hp)]
  exact Memory.read_write_congr b fun hne => h.filled hp j (by omega)

/-- A byte that is not the last one of its frame. -/
theorem SamePoll.storeNext (h : SamePoll s s') (hp : s.phase = .fill) (b : Byte) :
    SamePoll { s.stored s.fillCount.toNat b with fillCount := s.fillCount + 1 }
      { s'.stored s'.fillCount.toNat b with fillCount := s'.fillCount + 1 } := by
  have hle : (s.fillCount + 1).toNat ≤ s.fillCount.toNat + 1 := by
    rw [BitVec.toNat_add]
    exact Nat.mod_le _ _
  exact SamePoll.of_fill hp (h.phase ▸ hp) { h.outstanding (State.busy_of_phase hp (by decide)) with }
    (congrArg (· + 1) (h.fillCount (.inr hp))) (h.speedRaw hp) fun j hj => h.read_stored hp b (hj.trans_le hle)

/-- The last byte of a frame: both hold the same frame. -/
theorem SamePoll.sameFrame_stored (h : SamePoll s s') (hp : s.phase = .fill) (b : Byte)
    (hlen : s.rawLen = s.fillCount.toNat + 1) :
    SameFrame (s.stored s.fillCount.toNat b) (s'.stored s'.fillCount.toNat b) := by
  obtain ⟨hv, -, -, -, -, hacc, hsum, hgood, -⟩ := h.outstanding (State.busy_of_phase hp (by decide))
  refine ⟨hv, fun j => ?_, hacc, hsum, hgood⟩
  have hlen' : (s'.stored s'.fillCount.toNat b).rawLen = (s.stored s.fillCount.toNat b).rawLen :=
    congrArg Config.rawLen hv.symm
  rw [State.rawRead, State.rawRead, hlen']
  split_ifs with hj
  · rw [h.read_stored hp b (hj.trans_eq hlen)]
  · rfl

/-- The scan of a decoded frame reads `speed_raw` in the Legacy variant only (R180). -/
theorem SameFrame.scanRecord (h : SameFrame s s') (hs : s.variant = .legacy → s.speedRaw = s'.speedRaw) :
    s.scanRecord = s'.scanRecord := by
  cases hv : s.variant with
  | legacy => rw [State.scanRecord_of_legacy hv, State.scanRecord_of_legacy (h.variant ▸ hv), h.acc, hs hv]
  | packetized =>
    rw [State.scanRecord_of_packetized hv, State.scanRecord_of_packetized (h.variant ▸ hv), h.acc, h.speedSum,
      h.goodPackets]

/-- Two units alike that have stored and decoded the same frame complete with the same scan (R181). -/
theorem SamePoll.finish (h : SamePoll s s') (hp : s.phase = .fill) {j j' : Nat} {b : Byte} {u u' : State}
    (hw : (s.stored j b).walkOnly u) (hw' : (s'.stored j' b).walkOnly u') (hf : SameFrame u u') :
    SamePoll u.finish u'.finish := by
  obtain ⟨_, _, _, _, _, rfl⟩ := hw
  obtain ⟨_, _, _, _, _, rfl⟩ := hw'
  exact SamePoll.of_idle rfl rfl h.variant h.startCount (congrArg PollResult.scan (hf.scanRecord (h.speedRaw hp)))
    h.offers h.held h.events

/-- What LBODY and PFILL do when they answer (`execLbody_next`, `execPfill_next`): the byte is stored, and the last one
also decodes the full buffer by `f` and completes the `poll()`. -/
def State.storesThen (f : State → Except Fault State) (last : BitVec 11) (b : Byte) (s t : State) : Prop :=
  ∃ w, s.rawWrite s.fillCount.toNat b = .ok w ∧
    (s.fillCount = last ∧ (∃ u, f w = .ok u ∧ t = u.finish) ∨
     s.fillCount ≠ last ∧ t = { w with fillCount := s.fillCount + 1 })

/-- A decode `f` that reads only the frame and the accumulator completes two units alike with the same scan. -/
theorem SamePoll.storesThen (h : SamePoll s s') (hp : s.phase = .fill) {f : State → Except Fault State}
    {last : BitVec 11} {b : Byte} (hlen : s.rawLen = last.toNat + 1)
    (honly : ∀ w u, f w = .ok u → w.walkOnly u)
    (hframe : ∀ w w' u, SameFrame w w' → f w = .ok u → ∃ u', f w' = .ok u' ∧ SameFrame u u')
    (ht : State.storesThen f last b s t) : ∃ t', State.storesThen f last b s' t' ∧ SamePoll t t' := by
  have hfill := h.fillCount (.inr hp)
  obtain ⟨w, hw, hcases⟩ := ht
  obtain ⟨hj, rfl⟩ := State.rawWrite_ok.1 hw
  have hlen' : s'.rawLen = s.rawLen := congrArg Config.rawLen h.variant.symm
  have hw' : s'.rawWrite s'.fillCount.toNat b = .ok (s'.stored s'.fillCount.toNat b) :=
    State.rawWrite_eq_stored (by rwa [hlen', ← hfill]) b
  obtain ⟨hlast, u, hu, rfl⟩ | ⟨hnext, rfl⟩ := hcases
  · obtain ⟨u', hu', hf⟩ := hframe _ _ _ (h.sameFrame_stored hp b (hlast ▸ hlen)) hu
    exact ⟨u'.finish, ⟨_, hw', .inl ⟨hfill ▸ hlast, u', hu', rfl⟩⟩, h.finish hp (honly _ _ hu) (honly _ _ hu') hf⟩
  · exact ⟨_, ⟨_, hw', .inr ⟨hfill ▸ hnext, rfl⟩⟩, h.storeNext hp b⟩

theorem SamePoll.lbody (h : SamePoll s s') (hv : s.variant = .legacy) (hp : s.phase = .fill) (b : Byte)
    (ht : execLbody b s = .next t) : ∃ t', execLbody b s' = .next t' ∧ SamePoll t t' := by
  obtain ⟨t', ht', hR⟩ := h.storesThen (f := State.decodeBody) (last := 1439) hp (State.rawLen_of_legacy hv)
    (fun _ _ hu => (State.decodeBody_slotsOnly hu).walkOnly) (fun _ _ _ => SameFrame.decodeBody) (execLbody_next.1 ht)
  exact ⟨t', execLbody_next.2 ht', hR⟩

theorem SamePoll.pfill (h : SamePoll s s') (hv : s.variant = .packetized) (hp : s.phase = .fill) (b : Byte)
    (ht : execPfill b s = .next t) : ∃ t', execPfill b s' = .next t' ∧ SamePoll t t' := by
  obtain ⟨t', ht', hR⟩ := h.storesThen (f := State.walkBlock) (last := 1979) hp (State.rawLen_of_packetized hv)
    (fun _ _ => State.walkBlock_walkOnly) (fun _ _ _ => SameFrame.walkBlock) (execPfill_next.1 ht)
  exact ⟨t', execPfill_next.2 ht', hR⟩

/-! ### Every step keeps two units alike (R173) -/

/-- An event of the byte source that one of them takes, the other takes alike. -/
theorem SamePoll.takes (h : SamePoll s s') (hb : s.busy = true) {e : SourceEvent}
    (ht : s.runKey (s.sourceKey e) = .next t) :
    ∃ t', s'.runKey (s'.sourceKey e) = .next t' ∧ SamePoll t t' := by
  have hb' : s'.busy = true := h.busy_eq.trans hb
  cases e with
  | fail =>
    rw [State.runKey_ok (State.decode_failKey hb)] at ht
    rw [State.runKey_ok (State.decode_failKey hb')]
    cases (execFail_of_busy hb).symm.trans ht
    exact ⟨_, execFail_of_busy hb', h.raiseTransportFailure⟩
  | byte b =>
    have hv' := h.variant
    have hp' := h.phase
    cases hv : s.variant <;> cases hp : s.phase <;> rw [hv] at hv' <;> rw [hp] at hp'
    case legacy.idle | packetized.idle => exact absurd hp (State.busy_eq_true.1 hb)
    case packetized.speed =>
      obtain ⟨i, hi, -⟩ := State.runKey_next ht
      simp only [State.sourceKey, decode_byteKeyWord, hv, hp] at hi
      cases hi
    case legacy.search =>
      rw [State.runKey_ok (State.decode_byteKey_legacySearch b hv hp)] at ht
      rw [State.runKey_ok (State.decode_byteKey_legacySearch b hv'.symm hp'.symm), ← h.startCount]
      exact h.legacySearch hv hp _ b ht
    case legacy.speed =>
      rw [State.runKey_ok (State.decode_byteKey_legacySpeed b hv hp)] at ht
      rw [State.runKey_ok (State.decode_byteKey_legacySpeed b hv'.symm hp'.symm), ← h.fillCount (.inl hp)]
      split_ifs at ht ⊢ with hlow
      · exact h.lspd0 hp b ht
      · exact h.lspd1 hp (fun hf => by simp [hf] at hlow) b ht
    case legacy.fill =>
      rw [State.runKey_ok (State.decode_byteKey_legacyFill b hv hp)] at ht
      rw [State.runKey_ok (State.decode_byteKey_legacyFill b hv'.symm hp'.symm)]
      exact h.lbody hv hp b ht
    case packetized.search =>
      rw [State.runKey_ok (State.decode_byteKey_packetSearch b hv hp)] at ht
      rw [State.runKey_ok (State.decode_byteKey_packetSearch b hv'.symm hp'.symm)]
      exact h.packetSearch hv hp b ht
    case packetized.fill =>
      rw [State.runKey_ok (State.decode_byteKey_packetFill b hv hp)] at ht
      rw [State.runKey_ok (State.decode_byteKey_packetFill b hv'.symm hp'.symm)]
      exact h.pfill hv hp b ht

/-- The next event of the environment, when nothing held goes before it: each cell of R38's table. -/
theorem SamePoll.step_offered (h : SamePoll s s') (hw : s.busy = true → s.held = []) (ht : step s = .next t) :
    ∃ t', step s' = .next t' ∧ SamePoll t t' := by
  have hw' : s'.busy = true → s'.held = [] := fun hb' => h.held ▸ hw (h.busy_eq ▸ hb')
  cases ho : s.offers with
  | nil =>
    cases (step_of_nothing hw ho).symm.trans ht
    exact ⟨s', step_of_nothing hw' (h.offers ▸ ho), h⟩
  | cons o rest =>
    have ho' : s'.offers = o :: rest := h.offers ▸ ho
    have hqueue : SamePoll { s with offers := rest } { s' with offers := rest } :=
      h.withOffers (ho ▸ List.subset_cons_self ..)
    cases o with
    | direct k => exact absurd (ho ▸ List.mem_cons_self ..) (h.events k)
    | reset =>
      cases (step_of_reset hw ho).symm.trans ht
      exact ⟨_, step_of_reset hw' ho', hqueue.resetUnit⟩
    | poll =>
      cases hb : s.busy with
      | true => cases (step_of_poll_busy ho hb (hw hb)).symm.trans ht
      | false =>
        have hb' : s'.busy = false := h.busy_eq.trans hb
        cases ((step_of_poll_idle ho hb).trans (execPoll_of_idle hb)).symm.trans ht
        exact ⟨_, (step_of_poll_idle ho' hb').trans (execPoll_of_idle hb'),
          samePoll_startPoll h.variant rfl h.held hqueue.events⟩
    | source e =>
      cases hb : s.busy with
      | true =>
        have hb' : s'.busy = true := h.busy_eq.trans hb
        rw [step_of_source_busy ho hb (hw hb)] at ht
        rw [step_of_source_busy ho' hb' (hw' hb')]
        exact hqueue.takes hb ht
      | false =>
        cases (step_of_source_idle ho hb).symm.trans ht
        refine ⟨_, step_of_source_idle ho' (h.busy_eq.trans hb), ?_⟩
        rw [← h.held]
        exact hqueue.withHeld _

theorem SamePoll.step (h : SamePoll s s') (ht : step s = .next t) : ∃ t', step s' = .next t' ∧ SamePoll t t' := by
  by_cases hw : s.busy = true → s.held = []
  · exact h.step_offered hw ht
  · obtain ⟨hb, hne⟩ := Classical.not_imp.1 hw
    obtain ⟨e, rest, hh⟩ := List.exists_cons_of_ne_nil hne
    rw [step_of_held hb hh] at ht
    rw [step_of_held (h.busy_eq.trans hb) (h.held ▸ hh)]
    exact (h.withHeld rest).takes hb ht

end Alike

/-- Settles O60: POLL brings two units into the relation (`samePoll_startPoll`), and every step keeps it
(`SamePoll.step`). -/
theorem everyStepKeepsTwoUnitsAlike : Obligations.EveryStepKeepsTwoUnitsAlike := by
  refine ⟨fun s s' es hv => ?_, fun s s' t h ht => h.step ht⟩
  have hevents : (s.feed es).eventsOnly := by simp [State.eventsOnly, State.feed]
  exact samePoll_startPoll (s := s.feed es) (s' := s'.feed es) hv rfl rfl hevents

/-- Two units alike stay alike in a run of any length. -/
theorem SamePoll.runsTo {s s' t : State} {n : Nat} (h : SamePoll s s') (ht : s.runsTo n t) :
    ∃ t', s'.runsTo n t' ∧ SamePoll t t' := by
  induction n generalizing s s' with
  | zero => cases ht; exact ⟨s', rfl, h⟩
  | succ n ih =>
    obtain ⟨u, hu, ht⟩ := State.runsTo_succ.1 ht
    obtain ⟨u', hu', h'⟩ := h.step hu
    obtain ⟨t', ht', hR⟩ := ih h' ht
    exact ⟨t', State.runsTo_succ.2 ⟨u', hu', ht'⟩, hR⟩

/-- Settles O58: the run by O60 (`SamePoll.runsTo`), the phase and the result by the relation. -/
theorem resultDependsOnThisPollOnly : Obligations.ResultDependsOnThisPollOnly := by
  intro s s' es n t hv ht
  obtain ⟨t', ht', h⟩ := (everyStepKeepsTwoUnitsAlike.1 s s' es hv).runsTo ht
  exact ⟨t', ht', h.phase.symm, h.result.symm⟩

end Sys2Proof.Machine

/-! Proofs for `spec/46_host_ops.md`: FAIL fails an outstanding `poll()`, and is held when there is none. -/

namespace Sys2Proof.Machine

/-- No read is outstanding in IDLE, so the event stays with the byte source (R38, R191). -/
theorem execFail_of_idle {s : State} (hb : s.busy = false) : execFail s = .next (s.hold .fail) := by
  simp [execFail, hb]

/-- Settles O14 (`execFail_of_busy`, `execFail_of_idle`). -/
theorem failRaisesTransportFailure : Obligations.FailRaisesTransportFailure := by
  intro s v pp
  refine ⟨fun hp => ?_, fun hp => ?_⟩
  · exact execFail_of_busy (State.busy_eq_true.2 hp)
  · exact execFail_of_idle (State.busy_eq_false.2 hp)

end Sys2Proof.Machine

/-! Proofs for `spec/60_exceptions.md`: TransportFailure is the unit's one exception, and FAIL its one cause (R204). -/

namespace Sys2Proof.Machine

/-! ### The results that operations bring about (R32, R181, R190 to R192) -/

/-- A body or block byte keeps the result, and the last one returns a scan (R132, R143). -/
theorem State.storesThen.result {f : State → Except Fault State} {last : BitVec 11} {b : Byte} {s t : State}
    (h : State.storesThen f last b s t) : t.result = s.result ∨ ∃ c, t.result = .scan c := by
  obtain ⟨w, hw, ⟨-, u, -, rfl⟩ | ⟨-, rfl⟩⟩ := h
  · exact .inr ⟨_, State.finish_result u⟩
  · obtain ⟨-, rfl⟩ := State.rawWrite_ok.1 hw
    exact .inl rfl

/-- Whatever an operation makes of the result: kept, taken away by POLL or RESET, a scan, or the failure that FAIL
raises while busy. -/
theorem exec_result {i : Instr} {s t : State} (h : exec i s = .next t) :
    t.result = s.result ∨ t.result = .none ∨ (∃ c, t.result = .scan c) ∨
      (i.op = .fail ∧ s.busy = true ∧ t.result = .failure .transportFailure) := by
  cases i with
  | poll =>
    obtain ⟨-, rfl⟩ := execPoll_next h
    exact .inr (.inl s.startPoll_result)
  | reset => cases h; exact .inr (.inl s.resetUnit_result)
  | complete => cases h; exact .inr (.inr (.inl ⟨_, s.finish_result⟩))
  | fail =>
    obtain ⟨hb, rfl⟩ | ⟨-, rfl⟩ := execFail_next h
    · exact .inr (.inr (.inr ⟨rfl, hb, s.raiseTransportFailure_result⟩))
    · exact .inl (s.hold_result .fail)
  | lbody =>
    obtain hkept | hscan := State.storesThen.result (execLbody_next.1 h)
    · exact .inl hkept
    · exact .inr (.inr (.inl hscan))
  | pfill =>
    obtain hkept | hscan := State.storesThen.result (execPfill_next.1 h)
    · exact .inl hkept
    · exact .inr (.inr (.inl hscan))
  | _ =>
    obtain ⟨-, -, -, -, -, hresult, -, -⟩ := onlyTheNamedWritersWrite _ s t h
    exact .inl (hresult (by simp [Instr.op]))

/-- Settles O17: of the results that an operation brings about (`exec_result`), only FAIL's is a failure. -/
theorem onlyFailBringsAFailure : Obligations.OnlyFailBringsAFailure := by
  intro i s t f h hf
  obtain hkept | hnone | ⟨c, hscan⟩ | ⟨hop, hb, -⟩ := exec_result h
  · exact .inl (hkept.symm.trans hf)
  · cases hnone.symm.trans hf
  · cases hscan.symm.trans hf
  · exact .inr ⟨hop, State.busy_eq_true.1 hb⟩

end Sys2Proof.Machine
